-- ==== Sys2Proof/Word.lean ====
section
/-! DEFINITION. The word types of the machine (spec/00_scope.md R8, spec/30_encoding.md R91). -/

namespace Sys2Proof

/-- A byte: a register, a timer, a memory cell (R8: REG_WIDTH, TIMER_WIDTH; 20_memory.md R60). -/
abbrev Byte := BitVec 8

/-- A 16-bit word: the program counter, the index register, a stack slot, an instruction word (R8). -/
abbrev Word := BitVec 16

/-- A 4-bit value: the fields `x`, `y` and `n`, the stack pointer, a key index (R91, 10_state.md R33). -/
abbrev Nibble := BitVec 4

/-- A 12-bit address: the field `nnn`, the host's loader address (R91, 20_memory.md R74). -/
abbrev Addr := BitVec 12

end Sys2Proof
end

