-- ==== Sys2Proof/Syntax.lean ====
section
/-! DEFINITION. The instructions: one constructor for each of the 34 rows of spec/opcode_table.json, with the fields the
row gives it (spec/30_encoding.md R91-R97). The 35th rule of R99, the undefined no-op, is no row: the decoder rejects its
words by name and the step runs `execUndefined` on them. -/

namespace Sys2Proof

/-- An instruction with its operand fields. `x`, `y` are register indexes, `n` the sprite height, `kk` a byte, `nnn` an
address. The shifts carry the field `y`, which their encoding has and their meaning does not read (R169, R171). Every
width is the field's own (R91), so no operand out of range can be written. -/
inductive Instr where
  | clearScreen
  | ret
  | jump (nnn : Addr)
  | call (nnn : Addr)
  | skipEqImm (x : Nibble) (kk : Byte)
  | skipNeImm (x : Nibble) (kk : Byte)
  | skipEqReg (x y : Nibble)
  | loadImm (x : Nibble) (kk : Byte)
  | addImm (x : Nibble) (kk : Byte)
  | loadReg (x y : Nibble)
  | orReg (x y : Nibble)
  | andReg (x y : Nibble)
  | xorReg (x y : Nibble)
  | addReg (x y : Nibble)
  | subReg (x y : Nibble)
  | shiftRight (x y : Nibble)
  | subnReg (x y : Nibble)
  | shiftLeft (x y : Nibble)
  | skipNeReg (x y : Nibble)
  | loadIndex (nnn : Addr)
  | jumpOffset (nnn : Addr)
  | randAnd (x : Nibble) (kk : Byte)
  | drawSprite (x y n : Nibble)
  | skipKeyPressed (x : Nibble)
  | skipKeyNotPressed (x : Nibble)
  | getDelayTimer (x : Nibble)
  | waitKey (x : Nibble)
  | setDelayTimer (x : Nibble)
  | setSoundTimer (x : Nibble)
  | addToIndex (x : Nibble)
  | fontCharAddress (x : Nibble)
  | storeBcd (x : Nibble)
  | storeRegisters (x : Nibble)
  | loadRegisters (x : Nibble)
deriving DecidableEq, Repr

end Sys2Proof
end

