-- ==== Sys2Proof/Decode.lean ====
section
/-! DEFINITION. The two-level decoder of spec/30_encoding.md R90-R99, total on every word and on any bytes, and the
encoder written from the same opcode map. -/

namespace Sys2Proof

/-! ### Fields of a word (R91) -/

/-- `ir[15:12]`. -/
def fieldFamily (w : Word) : Nibble := w.extractLsb' 12 4
/-- `x = ir[11:8]`. -/
def fieldX (w : Word) : Nibble := w.extractLsb' 8 4
/-- `y = ir[7:4]`. -/
def fieldY (w : Word) : Nibble := w.extractLsb' 4 4
/-- `n = ir[3:0]`. -/
def fieldN (w : Word) : Nibble := w.extractLsb' 0 4
/-- `kk = ir[7:0]`. -/
def fieldKK (w : Word) : Byte := w.extractLsb' 0 8
/-- `nnn = ir[11:0]`. -/
def fieldNNN (w : Word) : Addr := w.extractLsb' 0 12

/-- Why a word (or a byte string) is no instruction. Each of the first four names a part of the undefined words of R98,
which the step executes as the no-op; `truncated` is a byte string shorter than one word, which no fetch yields. -/
inductive Undefined where
  /-- Family 0x0 with `n` neither 0x0 nor 0xE (R93). -/
  | family0 (n : Nibble)
  /-- Family 0x8 with `n` in 0x8-0xD or 0xF (R94). -/
  | family8 (n : Nibble)
  /-- Family 0xE with `n` neither 0xE nor 0x1 (R95). -/
  | familyE (n : Nibble)
  /-- Family 0xF with `kk` not one of the nine selectors (R96). -/
  | familyF (kk : Byte)
  /-- Fewer than two bytes. -/
  | truncated
deriving DecidableEq, Repr

/-! ### Decoder -/

/-- Family 0x0 (R93): only `n` is read. -/
def decodeFamily0 (w : Word) : Except Undefined Instr :=
  if fieldN w = 0x0 then .ok .clearScreen
  else if fieldN w = 0xE then .ok .ret
  else .error (.family0 (fieldN w))

/-- Family 0x8 (R94): the selector is `n`. -/
def decodeFamily8 (w : Word) : Except Undefined Instr :=
  if fieldN w = 0x0 then .ok (.loadReg (fieldX w) (fieldY w))
  else if fieldN w = 0x1 then .ok (.orReg (fieldX w) (fieldY w))
  else if fieldN w = 0x2 then .ok (.andReg (fieldX w) (fieldY w))
  else if fieldN w = 0x3 then .ok (.xorReg (fieldX w) (fieldY w))
  else if fieldN w = 0x4 then .ok (.addReg (fieldX w) (fieldY w))
  else if fieldN w = 0x5 then .ok (.subReg (fieldX w) (fieldY w))
  else if fieldN w = 0x6 then .ok (.shiftRight (fieldX w) (fieldY w))
  else if fieldN w = 0x7 then .ok (.subnReg (fieldX w) (fieldY w))
  else if fieldN w = 0xE then .ok (.shiftLeft (fieldX w) (fieldY w))
  else .error (.family8 (fieldN w))

/-- Family 0xE (R95): the selector is `n`; bits 7:4 are ignored. -/
def decodeFamilyE (w : Word) : Except Undefined Instr :=
  if fieldN w = 0xE then .ok (.skipKeyPressed (fieldX w))
  else if fieldN w = 0x1 then .ok (.skipKeyNotPressed (fieldX w))
  else .error (.familyE (fieldN w))

/-- Family 0xF (R96): the selector is the whole low byte. -/
def decodeFamilyF (w : Word) : Except Undefined Instr :=
  if fieldKK w = 0x07 then .ok (.getDelayTimer (fieldX w))
  else if fieldKK w = 0x0A then .ok (.waitKey (fieldX w))
  else if fieldKK w = 0x15 then .ok (.setDelayTimer (fieldX w))
  else if fieldKK w = 0x18 then .ok (.setSoundTimer (fieldX w))
  else if fieldKK w = 0x1E then .ok (.addToIndex (fieldX w))
  else if fieldKK w = 0x29 then .ok (.fontCharAddress (fieldX w))
  else if fieldKK w = 0x33 then .ok (.storeBcd (fieldX w))
  else if fieldKK w = 0x55 then .ok (.storeRegisters (fieldX w))
  else if fieldKK w = 0x65 then .ok (.loadRegisters (fieldX w))
  else .error (.familyF (fieldKK w))

/-- First-level dispatch on the family (R92, R97). Total and unambiguous (R99). -/
def decode (w : Word) : Except Undefined Instr :=
  if fieldFamily w = 0x0 then decodeFamily0 w
  else if fieldFamily w = 0x1 then .ok (.jump (fieldNNN w))
  else if fieldFamily w = 0x2 then .ok (.call (fieldNNN w))
  else if fieldFamily w = 0x3 then .ok (.skipEqImm (fieldX w) (fieldKK w))
  else if fieldFamily w = 0x4 then .ok (.skipNeImm (fieldX w) (fieldKK w))
  else if fieldFamily w = 0x5 then .ok (.skipEqReg (fieldX w) (fieldY w))
  else if fieldFamily w = 0x6 then .ok (.loadImm (fieldX w) (fieldKK w))
  else if fieldFamily w = 0x7 then .ok (.addImm (fieldX w) (fieldKK w))
  else if fieldFamily w = 0x8 then decodeFamily8 w
  else if fieldFamily w = 0x9 then .ok (.skipNeReg (fieldX w) (fieldY w))
  else if fieldFamily w = 0xA then .ok (.loadIndex (fieldNNN w))
  else if fieldFamily w = 0xB then .ok (.jumpOffset (fieldNNN w))
  else if fieldFamily w = 0xC then .ok (.randAnd (fieldX w) (fieldKK w))
  else if fieldFamily w = 0xD then .ok (.drawSprite (fieldX w) (fieldY w) (fieldN w))
  else if fieldFamily w = 0xE then decodeFamilyE w
  else decodeFamilyF w

/-! ### Bytes -/

/-- The word of two bytes, big-endian: the byte at the lower address is bits 15:8 (R90, 20_memory.md R66). -/
def wordOfBytes (hi lo : Byte) : Word := hi ++ lo

/-- The two bytes of a word as memory holds them, lower address first (R90). -/
def bytesOfWord (w : Word) : List Byte := [w.extractLsb' 8 8, w.extractLsb' 0 8]

/-- Decode the instruction at the front of a byte string; every instruction is exactly 2 bytes (R90, R109). -/
def decodeBytes : List Byte → Except Undefined (Instr × List Byte)
  | hi :: lo :: rest =>
    match decode (wordOfBytes hi lo) with
    | .ok i => .ok (i, rest)
    | .error e => .error e
  | _ => .error .truncated

/-- The instruction the decoder reads from the table word `w` of `nbits` bits: the word is laid out in bytes as memory
holds it and the bytes are decoded. -/
def decodeTableWord (nbits w : Nat) : Option Instr :=
  match decodeBytes (bytesOfWord (BitVec.ofNat 16 (w % 2 ^ nbits))) with
  | .ok (i, _) => some i
  | .error _ => none

/-! ### Encoder -/

/-- The word of an instruction, from the opcode map of 30_encoding.md; ignored bits (`?`) are 0, as in the map's
`match` column. -/
def encode : Instr → Word
  | .clearScreen => 0x0000#16
  | .ret => 0x000E#16
  | .jump nnn => 0x1#4 ++ nnn
  | .call nnn => 0x2#4 ++ nnn
  | .skipEqImm x kk => 0x3#4 ++ x ++ kk
  | .skipNeImm x kk => 0x4#4 ++ x ++ kk
  | .skipEqReg x y => 0x5#4 ++ x ++ y ++ 0x0#4
  | .loadImm x kk => 0x6#4 ++ x ++ kk
  | .addImm x kk => 0x7#4 ++ x ++ kk
  | .loadReg x y => 0x8#4 ++ x ++ y ++ 0x0#4
  | .orReg x y => 0x8#4 ++ x ++ y ++ 0x1#4
  | .andReg x y => 0x8#4 ++ x ++ y ++ 0x2#4
  | .xorReg x y => 0x8#4 ++ x ++ y ++ 0x3#4
  | .addReg x y => 0x8#4 ++ x ++ y ++ 0x4#4
  | .subReg x y => 0x8#4 ++ x ++ y ++ 0x5#4
  | .shiftRight x y => 0x8#4 ++ x ++ y ++ 0x6#4
  | .subnReg x y => 0x8#4 ++ x ++ y ++ 0x7#4
  | .shiftLeft x y => 0x8#4 ++ x ++ y ++ 0xE#4
  | .skipNeReg x y => 0x9#4 ++ x ++ y ++ 0x0#4
  | .loadIndex nnn => 0xA#4 ++ nnn
  | .jumpOffset nnn => 0xB#4 ++ nnn
  | .randAnd x kk => 0xC#4 ++ x ++ kk
  | .drawSprite x y n => 0xD#4 ++ x ++ y ++ n
  | .skipKeyPressed x => 0xE#4 ++ x ++ 0x0E#8
  | .skipKeyNotPressed x => 0xE#4 ++ x ++ 0x01#8
  | .getDelayTimer x => 0xF#4 ++ x ++ 0x07#8
  | .waitKey x => 0xF#4 ++ x ++ 0x0A#8
  | .setDelayTimer x => 0xF#4 ++ x ++ 0x15#8
  | .setSoundTimer x => 0xF#4 ++ x ++ 0x18#8
  | .addToIndex x => 0xF#4 ++ x ++ 0x1E#8
  | .fontCharAddress x => 0xF#4 ++ x ++ 0x29#8
  | .storeBcd x => 0xF#4 ++ x ++ 0x33#8
  | .storeRegisters x => 0xF#4 ++ x ++ 0x55#8
  | .loadRegisters x => 0xF#4 ++ x ++ 0x65#8

/-! ### Assembler syntax (R110) -/

/-- One hexadecimal digit. -/
def hexDigit (d : Nibble) : String :=
  if d.toNat < 10 then toString d.toNat
  else if d = 0xA then "A" else if d = 0xB then "B" else if d = 0xC then "C"
  else if d = 0xD then "D" else if d = 0xE then "E" else "F"

/-- `n` as a hexadecimal number. -/
def asmN (n : Nibble) : String := "0x" ++ hexDigit n
/-- `kk` as a hexadecimal number of two digits. -/
def asmKK (kk : Byte) : String := "0x" ++ hexDigit (kk.extractLsb' 4 4) ++ hexDigit (kk.extractLsb' 0 4)
/-- `nnn` as a hexadecimal number of three digits. -/
def asmNNN (a : Addr) : String :=
  "0x" ++ hexDigit (a.extractLsb' 8 4) ++ hexDigit (a.extractLsb' 4 4) ++ hexDigit (a.extractLsb' 0 4)
/-- A register field, `reg<i>`. -/
def asmReg (x : Nibble) : String := "reg" ++ toString x.toNat

/-- An instruction as the spec's assembler writes it (R110; 92_eei_decisions.md D22): the operation name, then the
operands in the order x, y, immediate. The `y` of the two shifts is not written. -/
def Instr.asm : Instr → String
  | .clearScreen => "clear-screen"
  | .ret => "return"
  | .jump nnn => "jump " ++ asmNNN nnn
  | .call nnn => "call " ++ asmNNN nnn
  | .skipEqImm x kk => "skip-eq-imm " ++ asmReg x ++ ", " ++ asmKK kk
  | .skipNeImm x kk => "skip-ne-imm " ++ asmReg x ++ ", " ++ asmKK kk
  | .skipEqReg x y => "skip-eq-reg " ++ asmReg x ++ ", " ++ asmReg y
  | .loadImm x kk => "load-imm " ++ asmReg x ++ ", " ++ asmKK kk
  | .addImm x kk => "add-imm " ++ asmReg x ++ ", " ++ asmKK kk
  | .loadReg x y => "load-reg " ++ asmReg x ++ ", " ++ asmReg y
  | .orReg x y => "or " ++ asmReg x ++ ", " ++ asmReg y
  | .andReg x y => "and " ++ asmReg x ++ ", " ++ asmReg y
  | .xorReg x y => "xor " ++ asmReg x ++ ", " ++ asmReg y
  | .addReg x y => "add-reg " ++ asmReg x ++ ", " ++ asmReg y
  | .subReg x y => "sub-reg " ++ asmReg x ++ ", " ++ asmReg y
  | .shiftRight x _ => "shift-right " ++ asmReg x
  | .subnReg x y => "subn-reg " ++ asmReg x ++ ", " ++ asmReg y
  | .shiftLeft x _ => "shift-left " ++ asmReg x
  | .skipNeReg x y => "skip-ne-reg " ++ asmReg x ++ ", " ++ asmReg y
  | .loadIndex nnn => "load-index " ++ asmNNN nnn
  | .jumpOffset nnn => "jump-offset " ++ asmNNN nnn
  | .randAnd x kk => "rand-and " ++ asmReg x ++ ", " ++ asmKK kk
  | .drawSprite x y n => "draw-sprite " ++ asmReg x ++ ", " ++ asmReg y ++ ", " ++ asmN n
  | .skipKeyPressed x => "skip-key-pressed " ++ asmReg x
  | .skipKeyNotPressed x => "skip-key-not-pressed " ++ asmReg x
  | .getDelayTimer x => "get-delay-timer " ++ asmReg x
  | .waitKey x => "wait-key " ++ asmReg x
  | .setDelayTimer x => "set-delay-timer " ++ asmReg x
  | .setSoundTimer x => "set-sound-timer " ++ asmReg x
  | .addToIndex x => "add-to-index " ++ asmReg x
  | .fontCharAddress x => "font-char-address " ++ asmReg x
  | .storeBcd x => "store-bcd " ++ asmReg x
  | .storeRegisters x => "store-registers " ++ asmReg x
  | .loadRegisters x => "load-registers " ++ asmReg x

/-- The bits of an instruction's word that decode ignores, the `?` of the opcode map (R93, R95, R97). -/
def ignoredBits : Instr → Word
  | .clearScreen => 0x0FF0
  | .ret => 0x0FF0
  | .skipEqReg _ _ => 0x000F
  | .skipNeReg _ _ => 0x000F
  | .skipKeyPressed _ => 0x00F0
  | .skipKeyNotPressed _ => 0x00F0
  | .jump _ => 0
  | .call _ => 0
  | .skipEqImm _ _ => 0
  | .skipNeImm _ _ => 0
  | .loadImm _ _ => 0
  | .addImm _ _ => 0
  | .loadReg _ _ => 0
  | .orReg _ _ => 0
  | .andReg _ _ => 0
  | .xorReg _ _ => 0
  | .addReg _ _ => 0
  | .subReg _ _ => 0
  | .shiftRight _ _ => 0
  | .subnReg _ _ => 0
  | .shiftLeft _ _ => 0
  | .loadIndex _ => 0
  | .jumpOffset _ => 0
  | .randAnd _ _ => 0
  | .drawSprite _ _ _ => 0
  | .getDelayTimer _ => 0
  | .waitKey _ => 0
  | .setDelayTimer _ => 0
  | .setSoundTimer _ => 0
  | .addToIndex _ => 0
  | .fontCharAddress _ => 0
  | .storeBcd _ => 0
  | .storeRegisters _ => 0
  | .loadRegisters _ => 0

end Sys2Proof
end

