-- ==== Sys2Proof/Machine/Flags.lean ====
section
/-! DEFINITION. The flag computations of the alu_with_carry_flag (spec/42_family8_alu.md R160). Operands are unsigned;
every flag is one bit, written to reg[15] as 0 or 1 (10_state.md R23). -/

namespace Sys2Proof.Machine

/-- A flag as the byte a flag write stores (10_state.md R23). -/
def flagByte (b : Bool) : Byte := if b then 1 else 0

/-- ADD with carry: the 16-bit sum exceeds 255 (R167). -/
def carryFlag (a b : Byte) : Bool := decide (a.toNat + b.toNat > 255)

/-- SUB: a > b, strictly (R160, R168). SUBN is the same flag with the operands exchanged (R170). -/
def noBorrowFlag (a b : Byte) : Bool := decide (a.toNat > b.toNat)

/-- SHR: the bit shifted out, `a[0]` (R169). -/
def shiftRightFlag (a : Byte) : Bool := a.getLsbD 0

/-- SHL: the bit shifted out, `a[7]` (R171). -/
def shiftLeftFlag (a : Byte) : Bool := a.getLsbD 7

end Sys2Proof.Machine
end

