-- ==== Sys2Proof/Config.lean ====
section
/-! DEFINITION. What is fixed for one machine (the spec's open parameters FONT_DATA and STRICT_UB, spec/00_scope.md R8),
and the one free value of the model, the byte a `rand-and` draws (spec/10_state.md R36). -/

namespace Sys2Proof

/-- The OPEN parameters of spec/00_scope.md R8 (spec/92_eei_decisions.md D13, D21). A machine is made with one
`Config`; `State` carries it, no step and no host action changes it (log entry 2). -/
structure Config where
  /-- STRICT_UB: when true, the three undefined conditions of D21 are model-level faults. -/
  strictUB : Bool
  /-- FONT_DATA: the 80 bytes Initialize copies to 0x050-0x09F (20_memory.md R64). -/
  fontData : Vector Byte 80
deriving DecidableEq, Repr

/-- FONT_BASE (R8, 20_memory.md R62). -/
abbrev fontBase : Nat := 0x050

/-- The 16 glyphs of 20_memory.md R64's table, one line a glyph, rows top to bottom.
PRESUMED, unsafe (log entry 3): the spec marks these bytes `from general knowledge, not in source`. -/
def Config.glyphTable : List Byte :=
  [0xF0, 0x90, 0x90, 0x90, 0xF0] ++
  [0x20, 0x60, 0x20, 0x20, 0x70] ++
  [0xF0, 0x10, 0xF0, 0x80, 0xF0] ++
  [0xF0, 0x10, 0xF0, 0x10, 0xF0] ++
  [0x90, 0x90, 0xF0, 0x10, 0x10] ++
  [0xF0, 0x80, 0xF0, 0x10, 0xF0] ++
  [0xF0, 0x80, 0xF0, 0x90, 0xF0] ++
  [0xF0, 0x10, 0x20, 0x40, 0x40] ++
  [0xF0, 0x90, 0xF0, 0x90, 0xF0] ++
  [0xF0, 0x90, 0xF0, 0x10, 0xF0] ++
  [0xF0, 0x90, 0xF0, 0x90, 0x90] ++
  [0xE0, 0x90, 0xE0, 0x90, 0xE0] ++
  [0xF0, 0x80, 0x80, 0x80, 0xF0] ++
  [0xE0, 0x90, 0x90, 0x90, 0xE0] ++
  [0xF0, 0x80, 0xF0, 0x80, 0xF0] ++
  [0xF0, 0x80, 0xF0, 0x80, 0x80]

/-- The default of FONT_DATA (R64). -/
def Config.defaultFont : Vector Byte 80 := ⟨⟨Config.glyphTable⟩, rfl⟩

/-- The values the spec gives the two parameters when nothing else is said (R8: STRICT_UB default false, FONT_DATA
default of R64). -/
def Config.default : Config := { strictUB := false, fontData := Config.defaultFont }

/-- What Initialize leaves in memory at address `a` (20_memory.md R64, R65): FONT_DATA in the font zone 0x050-0x09F,
0x00 elsewhere. This is what an address that `State.mem` does not list reads as. -/
def Config.resetByte (c : Config) (a : Nat) : Byte :=
  if h : fontBase ≤ a ∧ a < fontBase + 80 then c.fontData[a - fontBase]'(by omega) else 0

/-- The byte the random source delivers at its `k`-th draw (10_state.md R36, 60_exceptions.md R265: port `rand_byte`).
A FREE VALUE: nothing constrains it, no proof can see it (92_eei_decisions.md D11; log entry 4). -/
opaque Config.randByte : Nat → Byte

end Sys2Proof
end

