-- ==== Sys2Proof/Machine/Operands.lean ====
section
/-! DEFINITION. How the instructions form what they operate on: memory addresses, pixel indexes, key selects, register
lists, decimal digits and the ALU's results. -/

namespace Sys2Proof.Machine

/-- The flag register's index, reg[15] (spec/10_state.md R22). -/
abbrev flagReg : Nibble := 15

/-- The memory_address_decoder (20_memory.md R61): the low 12 bits of an address, taken at every byte access. -/
def memAddr (a : Word) : Nat := a.toNat % 4096

/-- The address `I + k`, at the width of `I` and wrapping modulo 2^16 (20_memory.md R75). -/
def indexed (i : Word) (k : Nat) : Word := i + BitVec.ofNat 16 k

/-- The pixel at column `x`, row `y`, coordinates wrapping modulo 64 and 32 (10_state.md R37, 43_families9toD.md R186). -/
def pixelIndex (x y : Nat) : Fin 2048 := ⟨(y % 32) * 64 + x % 64, by omega⟩

/-- The key a key test selects: the low 4 bits of reg[x] (44_familyE_keys.md R202). -/
def keySelect (v : Byte) : Nibble := v.setWidth 4

/-- The registers store-registers and load-registers name: reg[0] to reg[x] in that order (45_familyF_misc.md R217). -/
def regsUpTo (x : Nibble) : List Nibble := (List.range (x.toNat + 1)).map (BitVec.ofNat 4)

/-- The lowest pressed key, if any key is pressed: the ascending scan of wait-key (45_familyF_misc.md R211, D9). -/
def lowestKey (keys : BitVec 16) : Option Nat := (List.range 16).find? (fun k => keys.getLsbD k)

/-- Hundreds, tens, ones of store-bcd (45_familyF_misc.md R216). -/
def bcdHundreds (v : Byte) : Byte := BitVec.ofNat 8 (v.toNat / 100)
/-- The tens digit (R216). -/
def bcdTens (v : Byte) : Byte := BitVec.ofNat 8 (v.toNat / 10 % 10)
/-- The ones digit (R216). -/
def bcdOnes (v : Byte) : Byte := BitVec.ofNat 8 (v.toNat % 10)

/-- The address font-char-address computes, `0x0050 + 5 * v` (45_familyF_misc.md R215). -/
def glyphAddr (v : Byte) : Word := BitVec.ofNat 16 (fontBase + 5 * v.toNat)

/-! ### The alu_with_carry_flag's results (42_family8_alu.md R160): unsigned, modulo 256 -/

/-- ADD, with and without carry. -/
def aluAdd (a b : Byte) : Byte := BitVec.ofNat 8 (a.toNat + b.toNat)
/-- SUB; SUBN is the same result with the operands exchanged. -/
def aluSub (a b : Byte) : Byte := BitVec.ofInt 8 ((a.toNat : Int) - b.toNat)
/-- SHR: `a div 2`. -/
def aluShr (a : Byte) : Byte := BitVec.ofNat 8 (a.toNat / 2)
/-- SHL: `2 a mod 256`. -/
def aluShl (a : Byte) : Byte := BitVec.ofNat 8 (2 * a.toNat)

end Sys2Proof.Machine
end

