-- ==== Sys2Proof/Machine/State.lean ====
section
/-! DEFINITION. The Machine State (spec/10_state.md, spec/20_memory.md R60), the reasons a step can stop, and the state
after Initialize (spec/70_reset_and_hazards.md R280). -/

namespace Sys2Proof.Machine

/-- Why a step stops with a fault. The hardware raises no exception (60_exceptions.md R240): the three faults are the
model-level ones of 92_eei_decisions.md D21 and exist only where the parameter STRICT_UB is true. Each is safe: the run
ends where the source calls the behaviour undefined. -/
inductive Fault where
  /-- Raised by call at ghost call depth 16 under STRICT_UB (41_families1to7.md R141, D21). Safe. -/
  | stackOverflow
  /-- Raised by return at ghost call depth 0 under STRICT_UB (40_family0_system.md R131, D21). Safe. -/
  | stackUnderflow
  /-- Raised by the two key tests when reg[x] > 15 under STRICT_UB (44_familyE_keys.md R202, D21). Safe. -/
  | keyIndexOutOfRange
deriving DecidableEq, Repr

/-- Why a step is refused. -/
inductive Refusal where
  /-- Raised by an arm of `exec` whose instruction has no meaning yet; no arm does. Safe. -/
  | notModelled (mnemonic : String)
deriving DecidableEq, Repr

/-- Memory as a list of (address, byte) pairs; an address not listed reads as `Config.resetByte`. -/
abbrev Memory := List Host.Cell

/-- The canonical form of a memory: addresses strictly rising, all of them in the 4096-byte space (20_memory.md R60), and
no entry equal to what its address reads as when unlisted. Equal memories are then equal lists. -/
abbrev Memory.wf (c : Config) (m : Memory) : Prop :=
  m.Pairwise (fun e f => e.1 < f.1) ∧ ∀ e ∈ m, e.1 < 4096 ∧ e.2 ≠ c.resetByte e.1

/-- The Machine State. Plain data, and all the state the spec names (10_state.md summary table and R40), with three
fields of the model's own: `cfg`, `callDepth` and `draws`. -/
structure State where
  /-- The open parameters FONT_DATA and STRICT_UB (00_scope.md R8). Nothing changes them (log entry 2). -/
  cfg : Config
  /-- reg[0..15]; reg[15] is the flag register (10_state.md R20, R22). -/
  regs : Vector Byte 16
  /-- The program counter (R27). -/
  pc : Word
  /-- The index register (R30). -/
  I : Word
  /-- The call stack, 16 slots (R32). -/
  stack : Vector Word 16
  /-- The stack pointer, the next free slot (R33). -/
  sp : Nibble
  /-- The delay timer (R34). -/
  DT : Byte
  /-- The sound timer (R34). -/
  ST : Byte
  /-- The 16 key bits, key k on bit k, 1 = pressed (R35, 60_exceptions.md R268). -/
  keypad : BitVec 16
  /-- The 64x32 framebuffer, row-major (R37): row y is `fb[y]`, its column x is bit x, 1 = on, so that pixel
  p = y*64 + x is bit p mod 64 of `fb[p div 64]`. -/
  fb : Vector (BitVec 64) 32
  /-- The current instruction word, the most recently fetched one (R38). -/
  ir : Word
  /-- The tone output of the last Step (R39). -/
  tone : Bool
  /-- The 4096 bytes of memory (20_memory.md R60). -/
  mem : Memory
  /-- The ghost call depth, +1 at each call and -1 at each return, invisible to the program (D21). -/
  callDepth : Int
  /-- How many bytes the random source has delivered: the next is `Config.randByte draws` (R36; log entry 4). -/
  draws : Nat
deriving DecidableEq, Repr

/-- The state right after Initialize (70_reset_and_hazards.md R280), for a machine made with the parameters `c`.
The spec gives `ir` no reset value (10_state.md R38): DESIGN CHOICE 0x0000 (log entry 1). -/
def State.resetWith (c : Config) : State where
  cfg := c
  regs := Vector.replicate 16 0
  pc := 0x0200
  I := 0x0000
  stack := Vector.replicate 16 0
  sp := 0
  DT := 0
  ST := 0
  keypad := 0
  fb := Vector.replicate 32 0
  ir := 0x0000
  tone := false
  mem := []
  callDepth := 0
  draws := 0

/-- The machine right after reset, with the parameters at the values R8 gives them. -/
def State.reset : State := State.resetWith Config.default

end Sys2Proof.Machine
end

