-- ==== Sys2Proof/Machine/Ops.lean ====
section
/-! DEFINITION. The named operations over the Machine State. Every read and write of a piece of state that a rule makes
goes through one of them. The machine has no exception entry and no return from one (spec/60_exceptions.md R240, R242),
so none is here. -/

namespace Sys2Proof.Machine

/-! ### Registers (spec/10_state.md R20-R25) -/

/-- Read reg[x]. No register is hardwired (R21). -/
def State.reg (s : State) (x : Nibble) : Byte := s.regs[x.toNat]'x.isLt

/-- `reg[x] <- v`. -/
def State.setReg (s : State) (x : Nibble) (v : Byte) : State := { s with regs := s.regs.set x.toNat v x.isLt }

/-- A flag write: reg[15] becomes 0 or 1 (R22, R23). -/
def State.setFlag (s : State) (b : Bool) : State := s.setReg flagReg (flagByte b)

/-! ### Program counter and index register (R27-R31) -/

/-- `pc <- v`, at 16 bits (R28). -/
def State.setPc (s : State) (v : Word) : State := { s with pc := v }

/-- The taken or untaken half of a skip: `if c then pc <- pc + 2` (41_families1to7.md R142). -/
def State.skipIf (s : State) (c : Bool) : State := if c then s.setPc (s.pc + 2) else s

/-- `I <- v`, at 16 bits, not masked (R30). -/
def State.setI (s : State) (v : Word) : State := { s with I := v }

/-! ### Call stack (R32, R33) -/

/-- Read stack[j]. -/
def State.stackSlot (s : State) (j : Nibble) : Word := s.stack[j.toNat]'j.isLt

/-- A push: `stack[sp] <- v`, then `sp <- (sp + 1) mod 16`. The ghost call depth counts the call (D21). -/
def State.push (s : State) (v : Word) : State :=
  { s with stack := s.stack.set s.sp.toNat v s.sp.isLt, sp := s.sp + 1, callDepth := s.callDepth + 1 }

/-- A pop's change of state: `sp <- (sp - 1) mod 16`; the slot is not cleared. The popped value is then
`stackSlot` of the new `sp`. The ghost call depth counts the return (D21). -/
def State.pop (s : State) : State := { s with sp := s.sp - 1, callDepth := s.callDepth - 1 }

/-! ### Timers (R34) and keypad (R35) -/

/-- `DT <- v`. -/
def State.setDT (s : State) (v : Byte) : State := { s with DT := v }

/-- `ST <- v`. -/
def State.setST (s : State) (v : Byte) : State := { s with ST := v }

/-- keypad[k] is pressed. -/
def State.keyPressed (s : State) (k : Nibble) : Bool := s.keypad.getLsbD k.toNat

/-! ### Framebuffer (R37) -/

/-- fb[p]. -/
def State.pixel (s : State) (p : Fin 2048) : Bool := (s.fb[p.val / 64]'(by omega)).getLsbD (p.val % 64)

/-- `fb[p] <- fb[p] XOR 1`. -/
def State.togglePixel (s : State) (p : Fin 2048) : State :=
  { s with fb := s.fb.set (p.val / 64) ((s.fb[p.val / 64]'(by omega)) ^^^ BitVec.twoPow 64 (p.val % 64)) (by omega) }

/-- Every pixel off (40_family0_system.md R130). -/
def State.clearPixels (s : State) : State := { s with fb := Vector.replicate 32 0 }

/-! ### Memory (20_memory.md R60-R70) -/

/-- The byte at address `a` of a memory: the listed one, or what Initialize left there. -/
def Memory.read (c : Config) : Memory → Nat → Byte
  | [], a => c.resetByte a
  | (b, v) :: m, a => if b = a then v else Memory.read c m a

/-- List `(a, v)` before the first entry of a larger address. -/
def Memory.insert (a : Nat) (v : Byte) : Memory → Memory
  | [] => [(a, v)]
  | (b, w) :: m => if a < b then (a, v) :: (b, w) :: m else (b, w) :: Memory.insert a v m

/-- Write `v` at address `a`, keeping the canonical form: the old entry goes, and the new one is listed unless `v` is
what `a` reads as unlisted. -/
def Memory.write (c : Config) (m : Memory) (a : Nat) (v : Byte) : Memory :=
  let rest := m.filter (fun e => e.1 != a)
  if v = c.resetByte a then rest else Memory.insert a v rest

/-- `MemRead(a, 1)` (00_scope.md section 5, R61). -/
def State.readMem (s : State) (a : Word) : Byte := Memory.read s.cfg s.mem (memAddr a)

/-- `MemWrite(a, 1, v)`. -/
def State.writeMem (s : State) (a : Word) (v : Byte) : State :=
  { s with mem := Memory.write s.cfg s.mem (memAddr a) v }

/-! ### Random source (10_state.md R36) -/

/-- The byte this draw delivers. -/
def State.drawnByte (s : State) : Byte := Config.randByte s.draws

/-- `Draw8()`'s change of state: one byte is consumed. -/
def State.countDraw (s : State) : State := { s with draws := s.draws + 1 }

/-! ### The phases of a Step around execution (30_encoding.md R100) -/

/-- The word at the program counter, big-endian (R101, 20_memory.md R66). -/
def State.fetchedWord (s : State) : Word := s.readMem s.pc ++ s.readMem (s.pc + 1)

/-- (a) Fetch: `ir <- MemRead(pc, 1) : MemRead(pc + 1, 1)` (R101). -/
def State.fetch (s : State) : State := { s with ir := s.fetchedWord }

/-- (b) Advance: `pc <- pc + 2` (R102). -/
def State.advance (s : State) : State := s.setPc (s.pc + 2)

/-- (d) `if DT > 0: DT <- DT - 1` (60_exceptions.md R250). -/
def State.tickDelay (s : State) : State := if s.DT.toNat > 0 then s.setDT (s.DT - 1) else s

/-- (e) The sound timer's decrement and the tone signal (60_exceptions.md R251, R252). -/
def State.tickSound (s : State) : State :=
  { s with
    tone := decide (s.ST = 1)
    ST := if s.ST.toNat > 0 then s.ST - 1 else s.ST }

/-- The timer phase: first the delay timer, then the sound timer (30_encoding.md R104). -/
def State.tickTimers (s : State) : State := s.tickDelay.tickSound

end Sys2Proof.Machine
end

