-- ==== Sys2Proof/Machine/Families1to7.lean ====
section
/-! DEFINITION. Families 0x1-0x7 (spec/41_families1to7.md): jump, call, skips, load-imm, add-imm. -/

namespace Sys2Proof.Machine

/-- jump (R140): `pc <- zext_16(nnn)`. -/
def execJump (nnn : Addr) (s : State) : Host.Outcome State Fault Refusal :=
  .next (s.setPc (nnn.setWidth 16))

/-- call (R141): push the post-increment pc, then `pc <- zext_16(nnn)`. Under STRICT_UB a call at ghost call depth 16 is
`fault StackOverflow` (D21). -/
def execCall (nnn : Addr) (s : State) : Host.Outcome State Fault Refusal :=
  if s.cfg.strictUB = true ∧ s.callDepth = 16 then .fault .stackOverflow
  else .next ((s.push s.pc).setPc (nnn.setWidth 16))

/-- skip-eq-imm (R142). -/
def execSkipEqImm (x : Nibble) (kk : Byte) (s : State) : Host.Outcome State Fault Refusal :=
  .next (s.skipIf (s.reg x == kk))

/-- skip-ne-imm (R143). -/
def execSkipNeImm (x : Nibble) (kk : Byte) (s : State) : Host.Outcome State Fault Refusal :=
  .next (s.skipIf (s.reg x != kk))

/-- skip-eq-reg (R144). -/
def execSkipEqReg (x y : Nibble) (s : State) : Host.Outcome State Fault Refusal :=
  .next (s.skipIf (s.reg x == s.reg y))

/-- load-imm (R145): `reg[x] <- kk`. -/
def execLoadImm (x : Nibble) (kk : Byte) (s : State) : Host.Outcome State Fault Refusal :=
  .next (s.setReg x kk)

/-- add-imm (R146): `reg[x] <- (reg[x] + kk) mod 256`, no flag. -/
def execAddImm (x : Nibble) (kk : Byte) (s : State) : Host.Outcome State Fault Refusal :=
  .next (s.setReg x (aluAdd (s.reg x) kk))

end Sys2Proof.Machine
end

