-- ==== Sys2Proof/Machine/Families9toD.lean ====
section
/-! DEFINITION. Families 0x9-0xD (spec/43_families9toD.md): skip-ne-reg, load-index, jump-offset, rand-and,
draw-sprite. -/

namespace Sys2Proof.Machine

/-- skip-ne-reg (R180). -/
def execSkipNeReg (x y : Nibble) (s : State) : Host.Outcome State Fault Refusal :=
  .next (s.skipIf (s.reg x != s.reg y))

/-- load-index (R181): `I <- zext_16(nnn)`. -/
def execLoadIndex (nnn : Addr) (s : State) : Host.Outcome State Fault Refusal :=
  .next (s.setI (nnn.setWidth 16))

/-- jump-offset (R182): `pc <- zext_16(nnn) + zext_16(reg[0])`. -/
def execJumpOffset (nnn : Addr) (s : State) : Host.Outcome State Fault Refusal :=
  .next (s.setPc (nnn.setWidth 16 + (s.reg 0).setWidth 16))

/-- rand-and (R183): one byte is drawn, `reg[x] <- r AND kk`. The drawn byte is a free value (log entry 4). -/
def execRandAnd (x : Nibble) (kk : Byte) (s : State) : Host.Outcome State Fault Refusal :=
  .next (s.countDraw.setReg x (s.drawnByte &&& kk))

/-- One pixel of a sprite (R184, R185): where bit `7 - col` of the row's byte `b` is set, the pixel is toggled, and reg[15]
becomes 1 if it was on. -/
def State.drawPixel (xs ys row : Nat) (b : Byte) (s : State) (col : Nat) : State :=
  if b.getLsbD (7 - col) then
    let p := pixelIndex (xs + col) (ys + row)
    (if s.pixel p then s.setFlag true else s).togglePixel p
  else s

/-- One row of a sprite: the byte at `I + row`, its 8 columns from left to right. -/
def State.drawRow (xs ys : Nat) (s : State) (row : Nat) : State :=
  (List.range 8).foldl (State.drawPixel xs ys row (s.readMem (indexed s.I row))) s

/-- draw-sprite (R184): the start coordinates are read before reg[15] is cleared; then `n` rows from top to bottom. -/
def execDrawSprite (x y n : Nibble) (s : State) : Host.Outcome State Fault Refusal :=
  .next ((List.range n.toNat).foldl (State.drawRow ((s.reg x).toNat % 64) ((s.reg y).toNat % 32)) (s.setFlag false))

end Sys2Proof.Machine
end

