-- ==== Sys2Proof/Machine/Family0.lean ====
section
/-! DEFINITION. Family 0x0 (spec/40_family0_system.md) and the undefined no-op (spec/30_encoding.md R98). In every
meaning `s.pc` is the post-increment counter, the address of the instruction plus 2 (R102). -/

namespace Sys2Proof.Machine

/-- clear-screen (R130): every pixel off. -/
def execClearScreen (s : State) : Host.Outcome State Fault Refusal :=
  .next s.clearPixels

/-- return (R131): `sp <- (sp - 1) mod 16; pc <- stack[sp]`. Under STRICT_UB a return at ghost call depth 0 is
`fault StackUnderflow` (D21). -/
def execRet (s : State) : Host.Outcome State Fault Refusal :=
  if s.cfg.strictUB = true ∧ s.callDepth = 0 then .fault .stackUnderflow
  else .next (s.pop.setPc (s.pop.stackSlot s.pop.sp))

/-- The undefined rule (30_encoding.md R98): the execute phase writes nothing. -/
def execUndefined (s : State) : Host.Outcome State Fault Refusal :=
  .next s

end Sys2Proof.Machine
end

