-- ==== Sys2Proof/Machine/Family8.lean ====
section
/-! DEFINITION. Family 0x8 (spec/42_family8_alu.md). The effects of one instruction take place in the order written, and
a later one reads the registers after the earlier writes (R161, 92_eei_decisions.md D3): the subtractions and shifts write
reg[15] first and compute their result from the registers as they then stand. -/

namespace Sys2Proof.Machine

/-- load-reg (R163). -/
def execLoadReg (x y : Nibble) (s : State) : Host.Outcome State Fault Refusal :=
  .next (s.setReg x (s.reg y))

/-- or (R164). -/
def execOrReg (x y : Nibble) (s : State) : Host.Outcome State Fault Refusal :=
  .next (s.setReg x (s.reg x ||| s.reg y))

/-- and (R165). -/
def execAndReg (x y : Nibble) (s : State) : Host.Outcome State Fault Refusal :=
  .next (s.setReg x (s.reg x &&& s.reg y))

/-- xor (R166). -/
def execXorReg (x y : Nibble) (s : State) : Host.Outcome State Fault Refusal :=
  .next (s.setReg x (s.reg x ^^^ s.reg y))

/-- add-reg (R167): the sum is computed first, then reg[15] is written, then reg[x]. -/
def execAddReg (x y : Nibble) (s : State) : Host.Outcome State Fault Refusal :=
  .next ((s.setFlag (carryFlag (s.reg x) (s.reg y))).setReg x (aluAdd (s.reg x) (s.reg y)))

/-- sub-reg (R168). -/
def execSubReg (x y : Nibble) (s : State) : Host.Outcome State Fault Refusal :=
  let t := s.setFlag (noBorrowFlag (s.reg x) (s.reg y))
  .next (t.setReg x (aluSub (t.reg x) (t.reg y)))

/-- shift-right (R169): reg[y] is neither read nor written. -/
def execShiftRight (x _y : Nibble) (s : State) : Host.Outcome State Fault Refusal :=
  let t := s.setFlag (shiftRightFlag (s.reg x))
  .next (t.setReg x (aluShr (t.reg x)))

/-- subn-reg (R170). -/
def execSubnReg (x y : Nibble) (s : State) : Host.Outcome State Fault Refusal :=
  let t := s.setFlag (noBorrowFlag (s.reg y) (s.reg x))
  .next (t.setReg x (aluSub (t.reg y) (t.reg x)))

/-- shift-left (R171): reg[y] is neither read nor written. -/
def execShiftLeft (x _y : Nibble) (s : State) : Host.Outcome State Fault Refusal :=
  let t := s.setFlag (shiftLeftFlag (s.reg x))
  .next (t.setReg x (aluShl (t.reg x)))

end Sys2Proof.Machine
end

