-- ==== Sys2Proof/Machine/FamilyE.lean ====
section
/-! DEFINITION. Family 0xE, the key tests (spec/44_familyE_keys.md). -/

namespace Sys2Proof.Machine

/-- A key test (R202): skip when key `reg[x] mod 16` is `pressed`. Under STRICT_UB a test with reg[x] > 15 is
`fault KeyIndexOutOfRange` (D21). -/
def keyTest (x : Nibble) (pressed : Bool) (s : State) : Host.Outcome State Fault Refusal :=
  if s.cfg.strictUB = true ∧ (s.reg x).toNat > 15 then .fault .keyIndexOutOfRange
  else .next (s.skipIf (s.keyPressed (keySelect (s.reg x)) == pressed))

/-- skip-key-pressed (R200). -/
def execSkipKeyPressed (x : Nibble) (s : State) : Host.Outcome State Fault Refusal :=
  keyTest x true s

/-- skip-key-not-pressed (R201). -/
def execSkipKeyNotPressed (x : Nibble) (s : State) : Host.Outcome State Fault Refusal :=
  keyTest x false s

end Sys2Proof.Machine
end

