-- ==== Sys2Proof/Machine/FamilyF.lean ====
section
/-! DEFINITION. Family 0xF (spec/45_familyF_misc.md): timers, wait-key, index arithmetic, BCD, register transfer. -/

namespace Sys2Proof.Machine

/-- get-delay-timer (R210): reads DT before this Step's decrement. -/
def execGetDelayTimer (x : Nibble) (s : State) : Host.Outcome State Fault Refusal :=
  .next (s.setReg x s.DT)

/-- wait-key (R211): the lowest pressed key's index goes to reg[x]; with no key pressed, `pc <- pc - 2`. -/
def execWaitKey (x : Nibble) (s : State) : Host.Outcome State Fault Refusal :=
  match lowestKey s.keypad with
  | some k => .next (s.setReg x (BitVec.ofNat 8 k))
  | none => .next (s.setPc (s.pc - 2))

/-- set-delay-timer (R212). -/
def execSetDelayTimer (x : Nibble) (s : State) : Host.Outcome State Fault Refusal :=
  .next (s.setDT (s.reg x))

/-- set-sound-timer (R213). -/
def execSetSoundTimer (x : Nibble) (s : State) : Host.Outcome State Fault Refusal :=
  .next (s.setST (s.reg x))

/-- add-to-index (R214): `I <- (I + zext_16(reg[x])) mod 65536`, no flag. -/
def execAddToIndex (x : Nibble) (s : State) : Host.Outcome State Fault Refusal :=
  .next (s.setI (s.I + (s.reg x).setWidth 16))

/-- font-char-address (R215): `I <- 0x0050 + 5 * zext_16(reg[x])`. -/
def execFontCharAddress (x : Nibble) (s : State) : Host.Outcome State Fault Refusal :=
  .next (s.setI (glyphAddr (s.reg x)))

/-- store-bcd (R216): hundreds, tens, ones at I, I + 1, I + 2. -/
def execStoreBcd (x : Nibble) (s : State) : Host.Outcome State Fault Refusal :=
  let v := s.reg x
  .next (((s.writeMem (indexed s.I 0) (bcdHundreds v)).writeMem (indexed s.I 1) (bcdTens v)).writeMem
    (indexed s.I 2) (bcdOnes v))

/-- One step of store-registers' loop: `MemWrite(I + i, 1, reg[i])`. -/
def State.storeReg (s : State) (i : Nibble) : State := s.writeMem (indexed s.I i.toNat) (s.reg i)

/-- store-registers (R217): `for i in 0 .. x`. -/
def execStoreRegisters (x : Nibble) (s : State) : Host.Outcome State Fault Refusal :=
  .next ((regsUpTo x).foldl State.storeReg s)

/-- One step of load-registers' loop: `reg[i] <- MemRead(I + i, 1)`. -/
def State.loadReg (s : State) (i : Nibble) : State := s.setReg i (s.readMem (indexed s.I i.toNat))

/-- load-registers (R218): `for i in 0 .. x`. -/
def execLoadRegisters (x : Nibble) (s : State) : Host.Outcome State Fault Refusal :=
  .next ((regsUpTo x).foldl State.loadReg s)

end Sys2Proof.Machine
end

