-- ==== Sys2Proof/Machine/Step.lean ====
section
/-! DEFINITION. One Step (spec/30_encoding.md R100) and where a program's word is stored for it. -/

namespace Sys2Proof.Machine

/-- (c) Execute (R103): the one rule `ir` selects, the undefined no-op where no row of the opcode map matches (R98). -/
def execute (w : Word) (s : State) : Host.Outcome State Fault Refusal :=
  match decode w with
  | .ok i => exec i s
  | .error _ => execUndefined s

/-- A Step: (a) fetch, (b) advance, (c) execute, (d, e) the timer phase (R100). A model-level fault ends the run (D21). -/
def step (s : State) : Host.Outcome State Fault Refusal :=
  match execute s.fetch.ir s.fetch.advance with
  | .next t => .next t.tickTimers
  | .fault r => .fault r
  | .refused r => .refused r

/-- `s` with the instruction whose bits are `w` (of `nbits` bits) stored at the program counter, in the byte order fetch
reads (R90): what the host's loader port does (20_memory.md R74; log entry 5). -/
def State.withFetchWord (s : State) (nbits w : Nat) : State :=
  let v : Word := BitVec.ofNat 16 (w % 2 ^ nbits)
  (s.writeMem s.pc (v.extractLsb' 8 8)).writeMem (s.pc + 1) (v.extractLsb' 0 8)

end Sys2Proof.Machine
end

