-- ==== Sys2Proof/Machine/HostPort.lean ====
section
/-! DEFINITION. The host interface (spec/60_exceptions.md R260-R267): the six interactions the core offers, each a
transaction between Steps (R267), and a run as a sequence of them (R273). -/

namespace Sys2Proof.Machine

/-- The Initialize transaction (70_reset_and_hazards.md R280, R283): every piece of state at its reset value, whatever it
was. The parameters stay, and the random source goes on to bytes it has not delivered (its reseeding, R281; log
entry 4). -/
def State.hostInit (s : State) : State := { State.resetWith s.cfg with draws := s.draws }

/-- The keypad write (R261): the 16 key bits are replaced. -/
def State.hostKeypad (s : State) (keys : BitVec 16) : State := { s with keypad := keys }

/-- The loader port (20_memory.md R74): `mem[a mod 4096] <- v`, for any 12-bit address. -/
def State.hostLoad (s : State) (a : Addr) (v : Byte) : State := s.writeMem (a.setWidth 16) v

/-- The loader's work on an image: its raw bytes verbatim from 0x200 up (R74, 70_reset_and_hazards.md R284). -/
def State.loadImage (s : State) (image : List Byte) : State :=
  (image.zipIdx).foldl (fun t e => t.hostLoad (BitVec.ofNat 12 (0x200 + e.2)) e.1) s

/-- What the host may ask of the core (R260), and nothing else. -/
inductive HostRequest where
  | init
  | step
  | readPixel (p : Fin 2048)
  | readTimers
  | writeKeypad (keys : BitVec 16)
  | writeMemory (a : Addr) (v : Byte)
deriving DecidableEq, Repr

/-- What the core returns (R260). -/
inductive HostReply where
  | nothing
  | tone (on : Bool)
  | pixel (on : Bool)
  | timers (delay sound : Byte)
deriving DecidableEq, Repr

/-- One transaction: the core's new state and its reply (R260). -/
def serve (r : HostRequest) (s : State) : Host.Outcome (State × HostReply) Fault Refusal :=
  match r with
  | .init => .next (s.hostInit, .nothing)
  | .step =>
    match step s with
    | .next t => .next (t, .tone t.tone)
    | .fault f => .fault f
    | .refused f => .refused f
  | .readPixel p => .next (s, .pixel (s.pixel p))
  | .readTimers => .next (s, .timers s.DT s.ST)
  | .writeKeypad keys => .next (s.hostKeypad keys, .nothing)
  | .writeMemory a v => .next (s.hostLoad a v, .nothing)

/-- The output signals of 60_exceptions.md R268 between transactions. The input signals are `HostRequest`s (`init_req`,
`step_req`, `keypad`, the loader's `ld_we`, `ld_addr`, `ld_data`) and the free value `Config.randByte` (`rand_byte`);
`clk` has no counterpart (log entry 16). -/
structure PortsOut where
  ready : Bool
  tone : Bool
  fbPixel : Bool
  delayTimer : Byte
  soundTimer : Byte
deriving DecidableEq, Repr

/-- What the outputs show while no transaction is in progress, with `fb_addr` at `fbAddr` (R268). -/
def State.portsOut (s : State) (fbAddr : BitVec 11) : PortsOut where
  ready := true
  tone := s.tone
  fbPixel := s.pixel fbAddr.toFin
  delayTimer := s.DT
  soundTimer := s.ST

/-- A run: transactions one after another, ended by the host (R273) or by a model-level fault (D21); the replies in
order. -/
def session : List HostRequest → State → Host.Outcome (State × List HostReply) Fault Refusal
  | [], s => .next (s, [])
  | r :: rs, s =>
    match serve r s with
    | .next (t, reply) =>
      match session rs t with
      | .next (u, replies) => .next (u, reply :: replies)
      | .fault f => .fault f
      | .refused f => .refused f
    | .fault f => .fault f
    | .refused f => .refused f

end Sys2Proof.Machine
end

