-- ==== Sys2Proof/WellFormed.lean ====
section
/-! DEFINITION. The checks the spec puts on what is written for the machine, not on what it runs: the machine runs every
word and accepts every host write (spec/30_encoding.md R99, spec/20_memory.md R74). Every operand of `Instr` has its
field's exact width, so no instruction has an operand out of range and every term of `Instr` can be encoded. -/

namespace Sys2Proof

/-- LOADER_MAX (00_scope.md R8): the 3584 bytes 0x200-0xFFF. -/
def loaderMax : Nat := 3584

/-- The loader's contract on a program image (20_memory.md R74): raw bytes, at most 3584 of them. It is the loader's
duty, not a check of the hardware (92_eei_decisions.md D16). -/
def imageWf (image : List Byte) : Bool := decide (image.length ≤ loaderMax)

/-- The form in which the spec's assembler writes an instruction (30_encoding.md R110): the field `y` of shift-right and
shift-left, encoded but not read, is written as 0. Decode admits every value of it. -/
def Instr.assemblerForm : Instr → Bool
  | .shiftRight _ y => y == 0
  | .shiftLeft _ y => y == 0
  | .clearScreen => true
  | .ret => true
  | .jump _ => true
  | .call _ => true
  | .skipEqImm _ _ => true
  | .skipNeImm _ _ => true
  | .skipEqReg _ _ => true
  | .loadImm _ _ => true
  | .addImm _ _ => true
  | .loadReg _ _ => true
  | .orReg _ _ => true
  | .andReg _ _ => true
  | .xorReg _ _ => true
  | .addReg _ _ => true
  | .subReg _ _ => true
  | .subnReg _ _ => true
  | .skipNeReg _ _ => true
  | .loadIndex _ => true
  | .jumpOffset _ => true
  | .randAnd _ _ => true
  | .drawSprite _ _ _ => true
  | .skipKeyPressed _ => true
  | .skipKeyNotPressed _ => true
  | .getDelayTimer _ => true
  | .waitKey _ => true
  | .setDelayTimer _ => true
  | .setSoundTimer _ => true
  | .addToIndex _ => true
  | .fontCharAddress _ => true
  | .storeBcd _ => true
  | .storeRegisters _ => true
  | .loadRegisters _ => true

/-- A program written with the spec's assembler for the loader: every instruction in the assembler's form, and the image
of 2 bytes an instruction within the loader's contract (R90, R110, 20_memory.md R74). -/
def programWf (program : List Instr) : Bool :=
  program.all Instr.assemblerForm && decide (2 * program.length ≤ loaderMax)

end Sys2Proof
end

