-- ==== Sys2Proof/Safety.lean ====
section
/-! DEFINITION. The terms claims are stated in: the parts of the state and what it means that only some of them change,
the invariant of the machine, the undefined conditions of STRICT_UB, and a run without a stop. -/

namespace Sys2Proof

/-- The words of one row of the opcode map (spec/30_encoding.md): every word that has the row's fixed bits decodes to the
row's instruction, its operands taken from the word's fields. -/
def DecodesTo (mask fixed : Word) (row : Word → Instr) : Prop :=
  ∀ w : Word, w &&& mask = fixed → decode w = .ok (row w)

/-- The instructions that write reg[15] as a flag (spec/10_state.md R22). -/
def Instr.writesFlag : Instr → Bool
  | .addReg _ _ | .subReg _ _ | .shiftRight _ _ | .subnReg _ _ | .shiftLeft _ _ | .drawSprite _ _ _ => true
  | .clearScreen | .ret | .jump _ | .call _ | .skipEqImm _ _ | .skipNeImm _ _ | .skipEqReg _ _ | .loadImm _ _
  | .addImm _ _ | .loadReg _ _ | .orReg _ _ | .andReg _ _ | .xorReg _ _ | .skipNeReg _ _ | .loadIndex _
  | .jumpOffset _ | .randAnd _ _ | .skipKeyPressed _ | .skipKeyNotPressed _ | .getDelayTimer _ | .waitKey _
  | .setDelayTimer _ | .setSoundTimer _ | .addToIndex _ | .fontCharAddress _ | .storeBcd _ | .storeRegisters _
  | .loadRegisters _ => false

/-- The registers an instruction names as its destination: reg[x], and for load-registers reg[0] to reg[x]
(spec/10_state.md R21, R22 and the instruction rules). -/
def Instr.namesDest (r : Nibble) : Instr → Bool
  | .loadImm x _ | .addImm x _ | .loadReg x _ | .orReg x _ | .andReg x _ | .xorReg x _ | .addReg x _ | .subReg x _
  | .shiftRight x _ | .subnReg x _ | .shiftLeft x _ | .randAnd x _ | .getDelayTimer x | .waitKey x => r == x
  | .loadRegisters x => decide (r.toNat ≤ x.toNat)
  | .clearScreen | .ret | .jump _ | .call _ | .skipEqImm _ _ | .skipNeImm _ _ | .skipEqReg _ _ | .skipNeReg _ _
  | .loadIndex _ | .jumpOffset _ | .drawSprite _ _ _ | .skipKeyPressed _ | .skipKeyNotPressed _ | .setDelayTimer _
  | .setSoundTimer _ | .addToIndex _ | .fontCharAddress _ | .storeBcd _ | .storeRegisters _ => false

end Sys2Proof

namespace Sys2Proof.Machine

/-- One part of the state, as small as a rule can write it. Together the parts are the whole state. -/
inductive Part where
  | reg (x : Nibble)
  | pc
  | I
  | stackSlot (j : Nibble)
  | sp
  | DT
  | ST
  | keypad
  | pixel (p : Fin 2048)
  | ir
  | tone
  | memByte (a : Addr)
  | cfg
  | callDepth
  | draws
deriving DecidableEq, Repr

/-- The part has one value in both states; a byte of memory is read as the machine reads it. -/
def Part.same (q : Part) (s t : State) : Prop :=
  match q with
  | .reg x => t.reg x = s.reg x
  | .pc => t.pc = s.pc
  | .I => t.I = s.I
  | .stackSlot j => t.stackSlot j = s.stackSlot j
  | .sp => t.sp = s.sp
  | .DT => t.DT = s.DT
  | .ST => t.ST = s.ST
  | .keypad => t.keypad = s.keypad
  | .pixel p => t.pixel p = s.pixel p
  | .ir => t.ir = s.ir
  | .tone => t.tone = s.tone
  | .memByte a => t.readMem (a.setWidth 16) = s.readMem (a.setWidth 16)
  | .cfg => t.cfg = s.cfg
  | .callDepth => t.callDepth = s.callDepth
  | .draws => t.draws = s.draws

/-- The frame: every part but those `changed` has the value it had. -/
def OnlyChanges (changed : Part → Prop) (s t : State) : Prop := ∀ q : Part, ¬ changed q → q.same s t

/-- The byte of memory at `I + k`, the part a store there may change (spec/20_memory.md R61, R75). -/
def indexedByte (s : State) (k : Nat) : Part := .memByte ((indexed s.I k).setWidth 12)

/-- The invariant of the machine. Memory keeps its canonical form; the 4-bit stack pointer is the ghost call depth modulo
16 (spec/10_state.md R33, spec/92_eei_decisions.md D21); under STRICT_UB the depth stays within 0 to 16. -/
structure State.Inv (s : State) : Prop where
  memory : Memory.wf s.cfg s.mem
  stackPointer : s.sp = BitVec.ofInt 4 s.callDepth
  depthBound : s.cfg.strictUB = true → 0 ≤ s.callDepth ∧ s.callDepth ≤ 16

/-- The undefined conditions of D21, by the fault each raises under STRICT_UB. -/
def undefinedCondition (i : Instr) (s : State) : Fault → Prop
  | .stackOverflow => (∃ nnn, i = .call nnn) ∧ s.callDepth = 16
  | .stackUnderflow => i = .ret ∧ s.callDepth = 0
  | .keyIndexOutOfRange => ∃ x, (i = .skipKeyPressed x ∨ i = .skipKeyNotPressed x) ∧ (s.reg x).toNat > 15

/-- The same state on a machine with STRICT_UB set to `b`. -/
def State.withStrict (s : State) (b : Bool) : State := { s with cfg := { s.cfg with strictUB := b } }

/-- A run that reaches its end: no transaction of it stops the machine. -/
def SafeRun (rs : List HostRequest) (s : State) : Prop := ∃ r, session rs s = .next r

end Sys2Proof.Machine
end

