-- ==== Sys2Proof/Certificates/Slice0/Obligations.lean ====
section
/-! DEFINITION. The statements about the model, for the provers. In a statement about `exec`, the state `s` is the one the
execute phase sees: `s.pc` is the post-increment counter (spec/30_encoding.md R102). -/

open Sys2Proof Sys2Proof.Machine

/-! ### Encoding -/

/-- The opcode map of 30_encoding.md (R92-R97): each row's words decode to the row's instruction. The selectors of
families 8, E and F are the spec's decision D18 (log entry 7). -/
def Obligations.DecodeFollowsOpcodeMap : Prop :=
  DecodesTo 0xF00F 0x0000 (fun _ => .clearScreen) ∧ DecodesTo 0xF00F 0x000E (fun _ => .ret) ∧
  DecodesTo 0xF000 0x1000 (fun w => .jump (w.extractLsb' 0 12)) ∧
  DecodesTo 0xF000 0x2000 (fun w => .call (w.extractLsb' 0 12)) ∧
  DecodesTo 0xF000 0x3000 (fun w => .skipEqImm (w.extractLsb' 8 4) (w.extractLsb' 0 8)) ∧
  DecodesTo 0xF000 0x4000 (fun w => .skipNeImm (w.extractLsb' 8 4) (w.extractLsb' 0 8)) ∧
  DecodesTo 0xF000 0x5000 (fun w => .skipEqReg (w.extractLsb' 8 4) (w.extractLsb' 4 4)) ∧
  DecodesTo 0xF000 0x6000 (fun w => .loadImm (w.extractLsb' 8 4) (w.extractLsb' 0 8)) ∧
  DecodesTo 0xF000 0x7000 (fun w => .addImm (w.extractLsb' 8 4) (w.extractLsb' 0 8)) ∧
  DecodesTo 0xF00F 0x8000 (fun w => .loadReg (w.extractLsb' 8 4) (w.extractLsb' 4 4)) ∧
  DecodesTo 0xF00F 0x8001 (fun w => .orReg (w.extractLsb' 8 4) (w.extractLsb' 4 4)) ∧
  DecodesTo 0xF00F 0x8002 (fun w => .andReg (w.extractLsb' 8 4) (w.extractLsb' 4 4)) ∧
  DecodesTo 0xF00F 0x8003 (fun w => .xorReg (w.extractLsb' 8 4) (w.extractLsb' 4 4)) ∧
  DecodesTo 0xF00F 0x8004 (fun w => .addReg (w.extractLsb' 8 4) (w.extractLsb' 4 4)) ∧
  DecodesTo 0xF00F 0x8005 (fun w => .subReg (w.extractLsb' 8 4) (w.extractLsb' 4 4)) ∧
  DecodesTo 0xF00F 0x8006 (fun w => .shiftRight (w.extractLsb' 8 4) (w.extractLsb' 4 4)) ∧
  DecodesTo 0xF00F 0x8007 (fun w => .subnReg (w.extractLsb' 8 4) (w.extractLsb' 4 4)) ∧
  DecodesTo 0xF00F 0x800E (fun w => .shiftLeft (w.extractLsb' 8 4) (w.extractLsb' 4 4)) ∧
  DecodesTo 0xF000 0x9000 (fun w => .skipNeReg (w.extractLsb' 8 4) (w.extractLsb' 4 4)) ∧
  DecodesTo 0xF000 0xA000 (fun w => .loadIndex (w.extractLsb' 0 12)) ∧
  DecodesTo 0xF000 0xB000 (fun w => .jumpOffset (w.extractLsb' 0 12)) ∧
  DecodesTo 0xF000 0xC000 (fun w => .randAnd (w.extractLsb' 8 4) (w.extractLsb' 0 8)) ∧
  DecodesTo 0xF000 0xD000 (fun w => .drawSprite (w.extractLsb' 8 4) (w.extractLsb' 4 4) (w.extractLsb' 0 4)) ∧
  DecodesTo 0xF00F 0xE00E (fun w => .skipKeyPressed (w.extractLsb' 8 4)) ∧
  DecodesTo 0xF00F 0xE001 (fun w => .skipKeyNotPressed (w.extractLsb' 8 4)) ∧
  DecodesTo 0xF0FF 0xF007 (fun w => .getDelayTimer (w.extractLsb' 8 4)) ∧
  DecodesTo 0xF0FF 0xF00A (fun w => .waitKey (w.extractLsb' 8 4)) ∧
  DecodesTo 0xF0FF 0xF015 (fun w => .setDelayTimer (w.extractLsb' 8 4)) ∧
  DecodesTo 0xF0FF 0xF018 (fun w => .setSoundTimer (w.extractLsb' 8 4)) ∧
  DecodesTo 0xF0FF 0xF01E (fun w => .addToIndex (w.extractLsb' 8 4)) ∧
  DecodesTo 0xF0FF 0xF029 (fun w => .fontCharAddress (w.extractLsb' 8 4)) ∧
  DecodesTo 0xF0FF 0xF033 (fun w => .storeBcd (w.extractLsb' 8 4)) ∧
  DecodesTo 0xF0FF 0xF055 (fun w => .storeRegisters (w.extractLsb' 8 4)) ∧
  DecodesTo 0xF0FF 0xF065 (fun w => .loadRegisters (w.extractLsb' 8 4))

/-- R98: the undefined words are exactly the four parts the rule lists; no other word is undefined. The
selectors of families 8, E and F are the spec's decision D18 (log entry 7). -/
def Obligations.UndefinedWordsAreExactlyR98 : Prop :=
  ∀ w : Word, (∃ e, decode w = .error e) ↔
    (w.extractLsb' 12 4 = 0x0#4 ∧ w.extractLsb' 0 4 ∉ [0x0#4, 0xE#4]) ∨
    (w.extractLsb' 12 4 = 0x8#4 ∧
      w.extractLsb' 0 4 ∉ [0x0#4, 0x1#4, 0x2#4, 0x3#4, 0x4#4, 0x5#4, 0x6#4, 0x7#4, 0xE#4]) ∨
    (w.extractLsb' 12 4 = 0xE#4 ∧ w.extractLsb' 0 4 ∉ [0xE#4, 0x1#4]) ∨
    (w.extractLsb' 12 4 = 0xF#4 ∧
      w.extractLsb' 0 8 ∉ [0x07#8, 0x0A#8, 0x15#8, 0x18#8, 0x1E#8, 0x29#8, 0x33#8, 0x55#8, 0x65#8])

/-- R97, R93, R95: a word decodes to `i` exactly when it is `encode i` outside the bits that decode ignores.
The selectors of families 8, E and F are the spec's decision D18 (log entry 7). -/
def Obligations.DecodeIffEncodeOutsideIgnoredBits : Prop :=
  ∀ (w : Word) (i : Instr), decode w = .ok i ↔ w &&& ~~~(ignoredBits i) = encode i

/-- Every instruction, with every operand its encoding admits, is read back from its word and from its two bytes.
The selectors of families 8, E and F are decision D18 (log entry 7), the 0 in ignored bits is log entry 22. -/
def Obligations.DecodeOfEncodeIsTheInstruction : Prop :=
  ∀ i : Instr, decode (encode i) = .ok i ∧ ∀ rest, decodeBytes (bytesOfWord (encode i) ++ rest) = .ok (i, rest)

/-- Words of spec/95_test_vectors.md section 2.1 and of the rules' examples (R92-R98), one or two of each sub-dispatch
family. What 0x8128, 0xE1FE, 0xE101, 0xF107, 0xF165 and 0xF166 decode to rests on the selectors of families 8, E and F,
which the spec marks as general knowledge: its decision D18 (PRESUMED, log entry 7). -/
def Obligations.WrittenWordsDecode : Prop :=
  decode 0x0FF0 = .ok .clearScreen ∧ decode 0x0ABE = .ok .ret ∧ decode 0x0123 = .error (.family0 3) ∧
  decode 0x1FFF = .ok (.jump 0xFFF) ∧ decode 0x5121 = .ok (.skipEqReg 1 2) ∧ decode 0x6005 = .ok (.loadImm 0 5) ∧
  decode 0x8014 = .ok (.addReg 0 1) ∧ decode 0x8128 = .error (.family8 8) ∧ decode 0x9AB7 = .ok (.skipNeReg 0xA 0xB) ∧
  decode 0xDABC = .ok (.drawSprite 0xA 0xB 0xC) ∧ decode 0xE1FE = .ok (.skipKeyPressed 1) ∧
  decode 0xE101 = .ok (.skipKeyNotPressed 1) ∧ decode 0xF107 = .ok (.getDelayTimer 1) ∧
  decode 0xF165 = .ok (.loadRegisters 1) ∧ decode 0xF166 = .error (.familyF 0x66)

/-! ### Reset -/

/-- R26, R29: Initialize, whatever the state, leaves every register 0x00 and pc at 0x0200; so does reset. -/
def Obligations.InitializeZeroesRegistersAndSetsPc : Prop :=
  ∀ s : State, (∀ x, s.hostInit.reg x = 0x00) ∧ s.hostInit.pc = 0x0200 ∧
    (∀ x, State.reset.reg x = 0x00) ∧ State.reset.pc = 0x0200

/-- R280, with R31-R39, R64, R65: the rest of what Initialize leaves. The values of I, sp, the framebuffer, tone and
memory outside the font zone are the spec's decisions D10 and D12 (log entry 13); FONT_DATA is a parameter (D13, log
entry 2). -/
def Obligations.InitializeLeavesResetValues : Prop :=
  ∀ s : State, s.hostInit.I = 0 ∧ s.hostInit.sp = 0 ∧ (∀ j, s.hostInit.stackSlot j = 0) ∧ s.hostInit.DT = 0 ∧
    s.hostInit.ST = 0 ∧ s.hostInit.keypad = 0 ∧ (∀ p, s.hostInit.pixel p = false) ∧ s.hostInit.tone = false ∧
    s.hostInit.callDepth = 0 ∧ s.hostInit.cfg = s.cfg ∧
    (∀ k : Fin 80, s.hostInit.readMem (BitVec.ofNat 16 (0x050 + k)) = s.cfg.fontData[k]) ∧
    (∀ a : Word, (a.toNat % 4096 < 0x050 ∨ 0x09F < a.toNat % 4096) → s.hostInit.readMem a = 0x00)

/-! ### The Step -/

/-- R101, R66: fetch reads the big-endian word at pc and pc + 1, each byte at its low 12 bits, into ir, and changes
nothing else; the word a Step executes is that one. -/
def Obligations.FetchReadsBigEndianWordAtPc : Prop :=
  ∀ s : State,
    s.fetch.ir = Memory.read s.cfg s.mem (s.pc.toNat % 4096) ++ Memory.read s.cfg s.mem ((s.pc + 1).toNat % 4096) ∧
    OnlyChanges (fun q => q = .ir) s s.fetch ∧
    (∀ t, step s = .next t → t.ir = s.readMem s.pc ++ s.readMem (s.pc + 1))

/-- R100, R102-R104: where the word at pc decodes to `i`, the Step is the meaning of `i` on the state with that word in
ir and pc advanced by 2, followed by the timer phase (R250-R252); where the meaning stops, the Step stops the same way.
Which Step has tone 1 is decision D10 (log entry 12). -/
def Obligations.StepRunsTheDecodedInstruction : Prop :=
  ∀ (s : State) (i : Instr), decode (s.readMem s.pc ++ s.readMem (s.pc + 1)) = .ok i →
    step s =
      match exec i { s with ir := s.readMem s.pc ++ s.readMem (s.pc + 1), pc := s.pc + 2 } with
      | .next t => .next { t with
          DT := if t.DT = 0 then 0 else t.DT - 1
          ST := if t.ST = 0 then 0 else t.ST - 1
          tone := t.ST == 1 }
      | .fault f => .fault f
      | .refused r => .refused r

/-- R98: a Step whose word is undefined advances pc by 2, runs the timer phase, and changes nothing else but ir.
That only the execute phase leaves all state unchanged is R98's reading (DEDUCED, log entry 14); the tone clause is R252
with the spec's decision D10 (log entry 12); which words of families 8, E and F are undefined is D18 (log entry 7). -/
def Obligations.UndefinedWordIsANoOp : Prop :=
  ∀ (s : State) (e : Undefined), decode (s.readMem s.pc ++ s.readMem (s.pc + 1)) = .error e →
    ∃ t, step s = .next t ∧ t.pc = s.pc + 2 ∧ t.DT.toNat = s.DT.toNat - 1 ∧ t.ST.toNat = s.ST.toNat - 1 ∧
      (t.tone = true ↔ s.ST = 1) ∧
      OnlyChanges (fun q => q = .pc ∨ q = .ir ∨ q = .DT ∨ q = .ST ∨ q = .tone) s t

/-- R240: where STRICT_UB is false no instruction and no word stops the machine, and the sequence of the Step does not
change: the execute phase ends in a next state and the timer phase follows it. -/
def Obligations.HardwareNeverStops : Prop :=
  ∀ s : State, s.cfg.strictUB = false →
    (∀ i, ∃ t, exec i s = .next t) ∧
    ∃ t, execute s.fetch.ir s.fetch.advance = .next t ∧ step s = .next t.tickTimers

/-- D21 (R241): the model stops on the three undefined conditions under STRICT_UB, each with its fault, on nothing else,
and refuses nothing (log entries 6, 10, 19). -/
def Obligations.StopsAreExactlyTheStrictConditions : Prop :=
  ∀ (i : Instr) (s : State), (∀ f, exec i s = .fault f ↔ s.cfg.strictUB = true ∧ undefinedCondition i s f) ∧
    (∀ r, exec i s ≠ .refused r)

/-- Where no undefined condition stops it, an instruction does under STRICT_UB what it does without it (D21;
log entry 2). -/
def Obligations.StrictAgreesWithHardware : Prop :=
  ∀ (i : Instr) (s t : State), exec i (s.withStrict true) = .next t →
    exec i (s.withStrict false) = .next (t.withStrict false)

/-- R250, R251: the timer phase takes exactly 1 from each timer above zero and leaves a zero one at zero, whatever the
other timer holds, and every Step that ends in a next state ends with it. -/
def Obligations.TimersSaturateAtZero : Prop :=
  ∀ s : State, s.tickTimers.DT.toNat = s.DT.toNat - 1 ∧ s.tickTimers.ST.toNat = s.ST.toNat - 1 ∧
    OnlyChanges (fun q => q = .DT ∨ q = .ST ∨ q = .tone) s s.tickTimers ∧
    (∀ t, step s = .next t → ∃ u, execute s.fetch.ir s.fetch.advance = .next u ∧ t = u.tickTimers)

/-- R252 (the spec's decision D10, log entry 12): the tone of a Step is 1 exactly when the sound timer holds 1 after the
execute phase; an instruction other than set-sound-timer leaves the value the Step began with to be compared. -/
def Obligations.ToneMarksTheSoundTimersLastTick : Prop :=
  ∀ s t u : State, execute s.fetch.ir s.fetch.advance = .next u → step s = .next t →
    (t.tone = true ↔ u.ST = 1) ∧ ((∀ x, decode s.fetchedWord ≠ .ok (.setSoundTimer x)) → u.ST = s.ST)

/-- R38, R39 and D10: no rule reads ir or tone as a Step finds them; the Step is the same whatever they hold
(log entries 1, 12). -/
def Obligations.StepIgnoresOldIrAndTone : Prop :=
  ∀ (s : State) (w : Word) (b : Bool), step { s with ir := w, tone := b } = step s

/-! ### Invariant and whole-machine rules -/

/-- The invariant, the model's (log entries 6, 17), holds at reset and after Initialize. -/
def Obligations.ResetMeetsTheInvariant : Prop :=
  State.reset.Inv ∧ ∀ s : State, s.hostInit.Inv

/-- Every Step keeps the invariant: memory's canonical form, sp as the call depth modulo 16, the depth bound under
STRICT_UB (log entries 6, 17). -/
def Obligations.StepKeepsTheInvariant : Prop :=
  ∀ s t : State, s.Inv → step s = .next t → t.Inv

/-- Every run of the machine, whatever the host does between Steps, keeps the invariant and the parameters
(log entries 2, 6, 15, 17). -/
def Obligations.EveryRunKeepsTheInvariant : Prop :=
  ∀ (rs : List HostRequest) (s t : State) (replies : List HostReply), s.Inv → session rs s = .next (t, replies) →
    t.Inv ∧ t.cfg = s.cfg ∧ replies.length = rs.length

/-- The access summary of 10_state.md (R28, R30, R32, R34, R35, R37, 20_memory.md R68): which instructions write which
state. -/
def Obligations.StateIsWrittenOnlyByItsWriters : Prop :=
  ∀ (i : Instr) (s t : State), exec i s = .next t →
    t.keypad = s.keypad ∧ t.cfg = s.cfg ∧ t.ir = s.ir ∧ t.tone = s.tone ∧
    (t.stack ≠ s.stack → ∃ nnn, i = .call nnn) ∧
    (t.sp ≠ s.sp ∨ t.callDepth ≠ s.callDepth → i = .ret ∨ ∃ nnn, i = .call nnn) ∧
    (t.fb ≠ s.fb → i = .clearScreen ∨ ∃ x y n, i = .drawSprite x y n) ∧
    (t.I ≠ s.I → (∃ nnn, i = .loadIndex nnn) ∨ ∃ x, i = .addToIndex x ∨ i = .fontCharAddress x) ∧
    (t.DT ≠ s.DT → ∃ x, i = .setDelayTimer x) ∧
    (t.ST ≠ s.ST → ∃ x, i = .setSoundTimer x) ∧
    (t.mem ≠ s.mem → ∃ x, i = .storeBcd x ∨ i = .storeRegisters x) ∧
    (t.draws ≠ s.draws → ∃ x kk, i = .randAnd x kk) ∧
    (t.pc ≠ s.pc → i = .ret ∨ (∃ nnn, i = .jump nnn ∨ i = .call nnn ∨ i = .jumpOffset nnn) ∨
      (∃ x kk, i = .skipEqImm x kk ∨ i = .skipNeImm x kk) ∨ (∃ x y, i = .skipEqReg x y ∨ i = .skipNeReg x y) ∨
      ∃ x, i = .skipKeyPressed x ∨ i = .skipKeyNotPressed x ∨ i = .waitKey x)

/-- R21, R22: a register changes only where the instruction names it as a destination, or it is reg[15] and the
instruction writes a flag. -/
def Obligations.RegistersAreWrittenOnlyByTheirWriters : Prop :=
  ∀ (i : Instr) (s t : State) (r : Nibble), exec i s = .next t → t.reg r ≠ s.reg r →
    i.namesDest r = true ∨ (r = 15 ∧ i.writesFlag = true)

/-- R23: a flag write writes 0 or 1 only; where the instruction does not also name reg[15] as its destination, that is
what reg[15] holds after it. -/
def Obligations.FlagWritesAreZeroOrOne : Prop :=
  ∀ (i : Instr) (s t : State), exec i s = .next t → i.writesFlag = true → i.namesDest 15 = false →
    t.reg 15 = 0 ∨ t.reg 15 = 1

/-! ### Family 0x0 -/

/-- R130, clear-screen. -/
def Obligations.ClearScreenTurnsEveryPixelOff : Prop :=
  DecodesTo 0xF00F 0x0000 (fun _ => .clearScreen) ∧
  ∀ s : State, ∃ t, exec .clearScreen s = .next t ∧ (∀ p, t.pixel p = false) ∧
    OnlyChanges (fun q => ∃ p, q = .pixel p) s t

/-- R131, return (D7, log entries 6 and 10): sp goes down by 1 modulo 16 and pc takes the slot it then names, which is
not cleared. Under STRICT_UB at ghost depth 0 it is the fault StackUnderflow instead (D21). -/
def Obligations.ReturnPopsThePc : Prop :=
  ∀ s : State,
    (¬(s.cfg.strictUB = true ∧ s.callDepth = 0) →
      ∃ t, exec .ret s = .next t ∧ t.sp = s.sp - 1 ∧ t.pc = s.stackSlot (s.sp - 1) ∧ t.callDepth = s.callDepth - 1 ∧
        OnlyChanges (fun q => q = .sp ∨ q = .pc ∨ q = .callDepth) s t) ∧
    (s.cfg.strictUB = true → s.callDepth = 0 → exec .ret s = .fault .stackUnderflow)

/-! ### Families 0x1-0x7, 0x9, 0xA, 0xB: control flow -/

/-- R140, jump; and a Step at a jump to its own address leaves pc, and the word pc fetches, as they were, so that the
next Step is the same jump. -/
def Obligations.JumpSetsPc : Prop :=
  DecodesTo 0xF000 0x1000 (fun w => .jump (w.extractLsb' 0 12)) ∧
  (∀ (nnn : Addr) (s : State), ∃ t, exec (.jump nnn) s = .next t ∧ t.pc.toNat = nnn.toNat ∧
    OnlyChanges (fun q => q = .pc) s t) ∧
  ∀ (s : State) (nnn : Addr), s.pc = nnn.setWidth 16 → decode s.fetchedWord = .ok (.jump nnn) →
    ∃ t, step s = .next t ∧ t.pc = s.pc ∧ t.fetchedWord = s.fetchedWord

/-- R141, call (D7, log entries 6 and 10): the post-increment pc goes to stack[sp], sp goes up by 1 modulo 16, pc takes
nnn. Under STRICT_UB at ghost depth 16 it is the fault StackOverflow instead (D21). -/
def Obligations.CallPushesThePc : Prop :=
  ∀ (nnn : Addr) (s : State),
    (¬(s.cfg.strictUB = true ∧ s.callDepth = 16) →
      ∃ t, exec (.call nnn) s = .next t ∧ t.stackSlot s.sp = s.pc ∧ t.sp = s.sp + 1 ∧ t.pc.toNat = nnn.toNat ∧
        t.callDepth = s.callDepth + 1 ∧
        OnlyChanges (fun q => q = .stackSlot s.sp ∨ q = .sp ∨ q = .pc ∨ q = .callDepth) s t) ∧
    (s.cfg.strictUB = true → s.callDepth = 16 → exec (.call nnn) s = .fault .stackOverflow)

/-- The source's §8 property (95_test_vectors.md S10): a return after a call, wherever it stands, comes back to the
instruction following the call, with sp and the ghost depth as they were; only the slot the call wrote differs
(D7, D21; log entries 6, 10). -/
def Obligations.ReturnAfterCallComesBack : Prop :=
  ∀ (nnn : Addr) (s t : State) (w : Word), s.Inv → exec (.call nnn) s = .next t →
    ∃ v, exec .ret { t with pc := w } = .next v ∧ v.pc = s.pc ∧ v.sp = s.sp ∧ v.callDepth = s.callDepth ∧
      OnlyChanges (fun q => q = .stackSlot s.sp) s v

/-- R142, R143, skip-eq-imm and skip-ne-imm. -/
def Obligations.SkipImmComparesRegisterWithByte : Prop :=
  DecodesTo 0xF000 0x3000 (fun w => .skipEqImm (w.extractLsb' 8 4) (w.extractLsb' 0 8)) ∧
  DecodesTo 0xF000 0x4000 (fun w => .skipNeImm (w.extractLsb' 8 4) (w.extractLsb' 0 8)) ∧
  ∀ (x : Nibble) (kk : Byte) (s : State),
    (∃ t, exec (.skipEqImm x kk) s = .next t ∧ t.pc = (if s.reg x = kk then s.pc + 2 else s.pc) ∧
      OnlyChanges (fun q => q = .pc) s t) ∧
    (∃ t, exec (.skipNeImm x kk) s = .next t ∧ t.pc = (if s.reg x = kk then s.pc else s.pc + 2) ∧
      OnlyChanges (fun q => q = .pc) s t)

/-- R144, R180, skip-eq-reg and skip-ne-reg; their words' low nibble is ignored. -/
def Obligations.SkipRegComparesRegisters : Prop :=
  DecodesTo 0xF000 0x5000 (fun w => .skipEqReg (w.extractLsb' 8 4) (w.extractLsb' 4 4)) ∧
  DecodesTo 0xF000 0x9000 (fun w => .skipNeReg (w.extractLsb' 8 4) (w.extractLsb' 4 4)) ∧
  ∀ (x y : Nibble) (s : State),
    (∃ t, exec (.skipEqReg x y) s = .next t ∧ t.pc = (if s.reg x = s.reg y then s.pc + 2 else s.pc) ∧
      OnlyChanges (fun q => q = .pc) s t) ∧
    (∃ t, exec (.skipNeReg x y) s = .next t ∧ t.pc = (if s.reg x = s.reg y then s.pc else s.pc + 2) ∧
      OnlyChanges (fun q => q = .pc) s t)

/-- R182, jump-offset (D4, log entry 9): pc takes nnn plus reg[0], at 16 bits and without a wrap. -/
def Obligations.JumpOffsetAddsReg0 : Prop :=
  ∀ (nnn : Addr) (s : State), ∃ t, exec (.jumpOffset nnn) s = .next t ∧
    t.pc.toNat = nnn.toNat + (s.reg 0).toNat ∧ OnlyChanges (fun q => q = .pc) s t

/-- R273, R140: a Step at a jump to its own address changes only the timers, the tone and ir (the second
byte of a jump at 0xFFF is at 0x000: D6, log entry 9). -/
def Obligations.SelfJumpChangesOnlyTimers : Prop :=
  ∀ (s : State) (nnn : Addr), s.pc = nnn.setWidth 16 →
    decode (s.readMem s.pc ++ s.readMem (s.pc + 1)) = .ok (.jump nnn) →
    ∃ t, step s = .next t ∧ t.pc = s.pc ∧ OnlyChanges (fun q => q = .DT ∨ q = .ST ∨ q = .tone ∨ q = .ir) s t

/-! ### Loads, adds and family 0x8 -/

/-- R145, R146, load-imm and add-imm: no flag is written. -/
def Obligations.ImmediateLoadAndAdd : Prop :=
  DecodesTo 0xF000 0x6000 (fun w => .loadImm (w.extractLsb' 8 4) (w.extractLsb' 0 8)) ∧
  DecodesTo 0xF000 0x7000 (fun w => .addImm (w.extractLsb' 8 4) (w.extractLsb' 0 8)) ∧
  ∀ (x : Nibble) (kk : Byte) (s : State),
    (∃ t, exec (.loadImm x kk) s = .next t ∧ t.reg x = kk ∧ OnlyChanges (fun q => q = .reg x) s t) ∧
    (∃ t, exec (.addImm x kk) s = .next t ∧ (t.reg x).toNat = ((s.reg x).toNat + kk.toNat) % 256 ∧
      OnlyChanges (fun q => q = .reg x) s t)

/-- R163-R166 and R162, load-reg, or, and, xor: no flag is written. -/
def Obligations.LogicalOperationsWriteNoFlag : Prop :=
  DecodesTo 0xF00F 0x8000 (fun w => .loadReg (w.extractLsb' 8 4) (w.extractLsb' 4 4)) ∧
  DecodesTo 0xF00F 0x8001 (fun w => .orReg (w.extractLsb' 8 4) (w.extractLsb' 4 4)) ∧
  DecodesTo 0xF00F 0x8002 (fun w => .andReg (w.extractLsb' 8 4) (w.extractLsb' 4 4)) ∧
  DecodesTo 0xF00F 0x8003 (fun w => .xorReg (w.extractLsb' 8 4) (w.extractLsb' 4 4)) ∧
  ∀ (x y : Nibble) (s : State),
    (∃ t, exec (.loadReg x y) s = .next t ∧ t.reg x = s.reg y ∧ OnlyChanges (fun q => q = .reg x) s t) ∧
    (∃ t, exec (.orReg x y) s = .next t ∧ t.reg x = s.reg x ||| s.reg y ∧ OnlyChanges (fun q => q = .reg x) s t) ∧
    (∃ t, exec (.andReg x y) s = .next t ∧ t.reg x = s.reg x &&& s.reg y ∧ OnlyChanges (fun q => q = .reg x) s t) ∧
    (∃ t, exec (.xorReg x y) s = .next t ∧ t.reg x = s.reg x ^^^ s.reg y ∧ OnlyChanges (fun q => q = .reg x) s t)

/-- R167, add-reg (D3, log entry 8): both operands are read first; reg[x] holds the sum modulo 256, and reg[15] the
carry unless x is 15. -/
def Obligations.AddRegWritesSumAndCarry : Prop :=
  ∀ (x y : Nibble) (s : State), ∃ t, exec (.addReg x y) s = .next t ∧
    (t.reg x).toNat = ((s.reg x).toNat + (s.reg y).toNat) % 256 ∧
    (x ≠ 15 → t.reg 15 = if (s.reg x).toNat + (s.reg y).toNat > 255 then 1 else 0) ∧
    OnlyChanges (fun q => q = .reg x ∨ q = .reg 15) s t

/-- R168, sub-reg, with the corner-case table (D3, log entry 8: the flag is written first and an operand that is reg[15]
is read after it). -/
def Obligations.SubRegWritesDifferenceAndNoBorrow : Prop :=
  ∀ (x y : Nibble) (s : State), ∃ t, exec (.subReg x y) s = .next t ∧
    (x ≠ 15 → t.reg 15 = if (s.reg x).toNat > (s.reg y).toNat then 1 else 0) ∧
    (x ≠ 15 → y ≠ 15 → t.reg x = s.reg x - s.reg y) ∧
    (x ≠ 15 → y = 15 → t.reg x = s.reg x - (if (s.reg x).toNat > (s.reg 15).toNat then 1 else 0)) ∧
    (x = 15 → y ≠ 15 → t.reg 15 = (if (s.reg 15).toNat > (s.reg y).toNat then 1 else 0) - s.reg y) ∧
    (x = 15 → y = 15 → t.reg 15 = 0) ∧
    OnlyChanges (fun q => q = .reg x ∨ q = .reg 15) s t

/-- R170, subn-reg, with the corner-case table (D3, log entry 8). -/
def Obligations.SubnRegWritesDifferenceAndNoBorrow : Prop :=
  ∀ (x y : Nibble) (s : State), ∃ t, exec (.subnReg x y) s = .next t ∧
    (x ≠ 15 → t.reg 15 = if (s.reg y).toNat > (s.reg x).toNat then 1 else 0) ∧
    (x ≠ 15 → y ≠ 15 → t.reg x = s.reg y - s.reg x) ∧
    (x ≠ 15 → y = 15 → t.reg x = (if (s.reg 15).toNat > (s.reg x).toNat then 1 else 0) - s.reg x) ∧
    (x = 15 → y ≠ 15 → t.reg 15 = s.reg y - (if (s.reg y).toNat > (s.reg 15).toNat then 1 else 0)) ∧
    (x = 15 → y = 15 → t.reg 15 = 0) ∧
    OnlyChanges (fun q => q = .reg x ∨ q = .reg 15) s t

/-- R169, R171, the shifts (D3, log entry 8): the bit shifted out goes to reg[15], reg[x] is shifted in place, reg[y]
has no part; with x = 15 the result is computed from the flag just written. -/
def Obligations.ShiftsCaptureTheBitShiftedOut : Prop :=
  ∀ (x y : Nibble) (s : State),
    (∃ t, exec (.shiftRight x y) s = .next t ∧
      (x ≠ 15 → (t.reg 15).toNat = (s.reg x).toNat % 2 ∧ (t.reg x).toNat = (s.reg x).toNat / 2) ∧
      (x = 15 → t.reg 15 = 0) ∧ OnlyChanges (fun q => q = .reg x ∨ q = .reg 15) s t) ∧
    (∃ t, exec (.shiftLeft x y) s = .next t ∧
      (x ≠ 15 → (t.reg 15).toNat = (s.reg x).toNat / 128 ∧ (t.reg x).toNat = (2 * (s.reg x).toNat) % 256) ∧
      (x = 15 → (t.reg 15).toNat = 2 * ((s.reg 15).toNat / 128)) ∧
      OnlyChanges (fun q => q = .reg x ∨ q = .reg 15) s t)

/-! ### Index register, random byte, sprite -/

/-- R181, load-index: the upper 4 bits of I become 0. -/
def Obligations.LoadIndexSetsI : Prop :=
  DecodesTo 0xF000 0xA000 (fun w => .loadIndex (w.extractLsb' 0 12)) ∧
  ∀ (nnn : Addr) (s : State), ∃ t, exec (.loadIndex nnn) s = .next t ∧ t.I.toNat = nnn.toNat ∧
    OnlyChanges (fun q => q = .I) s t

/-- R214, R215, add-to-index (D5, log entry 9) and font-char-address: no flag, no mask, and reg[x] not reduced to a
digit. -/
def Obligations.IndexArithmetic : Prop :=
  ∀ (x : Nibble) (s : State),
    (∃ t, exec (.addToIndex x) s = .next t ∧ t.I.toNat = (s.I.toNat + (s.reg x).toNat) % 65536 ∧
      OnlyChanges (fun q => q = .I) s t) ∧
    (∃ t, exec (.fontCharAddress x) s = .next t ∧ t.I.toNat = 0x0050 + 5 * (s.reg x).toNat ∧
      OnlyChanges (fun q => q = .I) s t)

/-- R183, rand-and (D11, log entry 4): reg[x] is the drawn byte AND kk, whatever byte the free value is, and one draw is
consumed, also for kk = 0. -/
def Obligations.RandAndMasksTheDrawnByte : Prop :=
  ∀ (x : Nibble) (kk : Byte) (s : State), ∃ t, exec (.randAnd x kk) s = .next t ∧
    t.reg x = Config.randByte s.draws &&& kk ∧ t.reg x &&& ~~~kk = 0 ∧ t.draws = s.draws + 1 ∧
    OnlyChanges (fun q => q = .reg x ∨ q = .draws) s t

/-- R184-R186, draw-sprite: pixel p ends toggled exactly where a set bit of the sprite falls on it, coordinates wrapping
per pixel; reg[15] is 1 exactly when such a pixel was on; nothing else changes. With n = 0 nothing is drawn (N11;
DEDUCED, log entry 18); with x or y = 15 the coordinate is the old reg[15] (D3, log entry 8); the byte at I + row past
0xFFF is the masked one (D6, log entry 9); that no pixel is toggled twice is R184's derived fact. -/
def Obligations.DrawSpriteTogglesAndReportsCollision : Prop :=
  ∀ (x y n : Nibble) (s : State), ∃ t, exec (.drawSprite x y n) s = .next t ∧
    (∀ p : Fin 2048, t.pixel p ≠ s.pixel p ↔
      ∃ row < n.toNat, ∃ col < 8, (s.readMem (indexed s.I row)).getLsbD (7 - col) = true ∧
        p.val = (((s.reg y).toNat % 32 + row) % 32) * 64 + ((s.reg x).toNat % 64 + col) % 64) ∧
    (t.reg 15 = 0 ∨ t.reg 15 = 1) ∧
    (t.reg 15 = 1 ↔ ∃ p, t.pixel p ≠ s.pixel p ∧ s.pixel p = true) ∧
    OnlyChanges (fun q => q = .reg 15 ∨ ∃ p, q = .pixel p) s t

/-! ### Keys and timers -/

/-- R200-R202, the key tests (D8, log entry 19): key reg[x] mod 16. Under STRICT_UB reg[x] > 15 is the fault
KeyIndexOutOfRange (D21). -/
def Obligations.KeyTestsSkipOnTheSelectedKey : Prop :=
  ∀ (x : Nibble) (s : State),
    (¬(s.cfg.strictUB = true ∧ (s.reg x).toNat > 15) →
      (∃ t, exec (.skipKeyPressed x) s = .next t ∧
        t.pc = (if s.keypad.getLsbD ((s.reg x).toNat % 16) then s.pc + 2 else s.pc) ∧
        OnlyChanges (fun q => q = .pc) s t) ∧
      (∃ t, exec (.skipKeyNotPressed x) s = .next t ∧
        t.pc = (if s.keypad.getLsbD ((s.reg x).toNat % 16) then s.pc else s.pc + 2) ∧
        OnlyChanges (fun q => q = .pc) s t)) ∧
    (s.cfg.strictUB = true → (s.reg x).toNat > 15 →
      exec (.skipKeyPressed x) s = .fault .keyIndexOutOfRange ∧
      exec (.skipKeyNotPressed x) s = .fault .keyIndexOutOfRange)

/-- R211, wait-key (D9, log entry 11): with a key pressed, reg[x] takes the lowest pressed index; with none, pc goes
back by 2. -/
def Obligations.WaitKeyTakesTheLowestKeyOrRewinds : Prop :=
  ∀ (x : Nibble) (s : State),
    (s.keypad ≠ 0 → ∃ t, exec (.waitKey x) s = .next t ∧ (t.reg x).toNat < 16 ∧
      s.keypad.getLsbD (t.reg x).toNat = true ∧ (∀ k < (t.reg x).toNat, s.keypad.getLsbD k = false) ∧
      OnlyChanges (fun q => q = .reg x) s t) ∧
    (s.keypad = 0 → ∃ t, exec (.waitKey x) s = .next t ∧ t.pc = s.pc - 2 ∧ OnlyChanges (fun q => q = .pc) s t)

/-- R211, R295, R272: a Step at a wait-key with no key pressed ends in a next state with pc where it was; the timers
tick; only ir, the timers and the tone change (selector: D18, log entry 7; level test: D9, log entry 11). -/
def Obligations.WaitKeyHoldsPcWhileTimersRun : Prop :=
  ∀ (s : State) (x : Nibble), s.keypad = 0 → decode (s.readMem s.pc ++ s.readMem (s.pc + 1)) = .ok (.waitKey x) →
    ∃ t, step s = .next t ∧ t.pc = s.pc ∧ t.DT.toNat = s.DT.toNat - 1 ∧ t.ST.toNat = s.ST.toNat - 1 ∧
      OnlyChanges (fun q => q = .ir ∨ q = .DT ∨ q = .ST ∨ q = .tone) s t

/-- R210, R212, R213, the timer instructions. -/
def Obligations.TimerInstructionsMoveTimers : Prop :=
  ∀ (x : Nibble) (s : State),
    (∃ t, exec (.getDelayTimer x) s = .next t ∧ t.reg x = s.DT ∧ OnlyChanges (fun q => q = .reg x) s t) ∧
    (∃ t, exec (.setDelayTimer x) s = .next t ∧ t.DT = s.reg x ∧ OnlyChanges (fun q => q = .DT) s t) ∧
    (∃ t, exec (.setSoundTimer x) s = .next t ∧ t.ST = s.reg x ∧ OnlyChanges (fun q => q = .ST) s t)

/-- R293: a timer written in a Step has been decremented once when the next instruction runs: with v = reg[x], a
get-delay-timer in the Step after a set-delay-timer reads v - 1, or 0 for v = 0
(selectors: D18, log entry 7). -/
def Obligations.DelayTimerReadsOneLessInTheNextStep : Prop :=
  ∀ (s t u : State) (x y : Nibble), decode s.fetchedWord = .ok (.setDelayTimer x) → step s = .next t →
    decode t.fetchedWord = .ok (.getDelayTimer y) → step t = .next u →
    (u.reg y).toNat = (s.reg x).toNat - 1

/-! ### Memory transfers -/

/-- R216, store-bcd: hundreds, tens and ones at I, I + 1, I + 2, addresses at their low 12 bits (D6, log
entry 9); every other byte stays. -/
def Obligations.StoreBcdWritesThreeDigits : Prop :=
  ∀ (x : Nibble) (s : State), ∃ t, exec (.storeBcd x) s = .next t ∧
    (t.readMem (indexed s.I 0)).toNat = (s.reg x).toNat / 100 ∧
    (t.readMem (indexed s.I 1)).toNat = (s.reg x).toNat / 10 % 10 ∧
    (t.readMem (indexed s.I 2)).toNat = (s.reg x).toNat % 10 ∧
    OnlyChanges (fun q => q = indexedByte s 0 ∨ q = indexedByte s 1 ∨ q = indexedByte s 2) s t

/-- R217, store-registers: reg[i] at I + i for i = 0 to x (past 0xFFF: D6, log entry 9); every other byte stays, and so
does I. -/
def Obligations.StoreRegistersWritesRegToX : Prop :=
  ∀ (x : Nibble) (s : State), ∃ t, exec (.storeRegisters x) s = .next t ∧
    (∀ i : Nibble, i.toNat ≤ x.toNat → t.readMem (indexed s.I i.toNat) = s.reg i) ∧
    OnlyChanges (fun q => ∃ k, k ≤ x.toNat ∧ q = indexedByte s k) s t

/-- R218, load-registers: reg[i] takes the byte at I + i for i = 0 to x (past 0xFFF: D6, log entry 9); registers above x
stay, and so does I. -/
def Obligations.LoadRegistersReadsRegToX : Prop :=
  ∀ (x : Nibble) (s : State), ∃ t, exec (.loadRegisters x) s = .next t ∧
    (∀ i : Nibble, i.toNat ≤ x.toNat → t.reg i = s.readMem (indexed s.I i.toNat)) ∧
    OnlyChanges (fun q => ∃ i : Nibble, i.toNat ≤ x.toNat ∧ q = .reg i) s t

/-- The source's §8 property (R218, 95_test_vectors.md S7): store-registers(x), then load-registers(x) into whatever
registers, with I and memory unchanged between them, restores reg[0] to reg[x] (D6, log entry 9). -/
def Obligations.StoreThenLoadRegistersRestores : Prop :=
  ∀ (x : Nibble) (s t u v : State), exec (.storeRegisters x) s = .next t → u = { t with regs := v.regs } →
    ∃ w, exec (.loadRegisters x) u = .next w ∧ (∀ i : Nibble, i.toNat ≤ x.toNat → w.reg i = s.reg i) ∧
      (∀ i : Nibble, x.toNat < i.toNat → w.reg i = v.reg i)

/-- R72: a Step fetches what the latest write left: after a host or program write of `v` at `a`, the fetched word has
`v` as its upper byte where `a` is pc and as its lower byte where `a` is pc + 1, addresses at their low 12 bits (D6, log
entry 9). -/
def Obligations.FetchSeesTheLatestWrite : Prop :=
  ∀ (s : State) (a : Word) (v : Byte),
    (s.writeMem a v).fetchedWord.extractLsb' 8 8 =
      (if s.pc.toNat % 4096 = a.toNat % 4096 then v else s.readMem s.pc) ∧
    (s.writeMem a v).fetchedWord.extractLsb' 0 8 =
      (if (s.pc.toNat + 1) % 4096 = a.toNat % 4096 then v else s.readMem (s.pc + 1))

/-! ### The host -/

/-- R262, R263: a framebuffer read returns the pixel, a timer read returns DT and ST; neither changes anything. -/
def Obligations.HostReadsChangeNothing : Prop :=
  ∀ (s : State) (p : Fin 2048), serve (.readPixel p) s = .next (s, .pixel (s.pixel p)) ∧
    serve .readTimers s = .next (s, .timers s.DT s.ST)

/-- R261, R74, R260: a keypad write replaces the 16 key bits, a loader write the byte at its address; nothing else
changes. A Step's reply is its tone, and Initialize is accepted in every state (R283). D15, D16, D23: log
entry 15. -/
def Obligations.HostWritesAndTransactions : Prop :=
  ∀ s : State,
    (∀ keys, ∃ t, serve (.writeKeypad keys) s = .next (t, .nothing) ∧ t.keypad = keys ∧
      OnlyChanges (fun q => q = .keypad) s t) ∧
    (∀ a v, ∃ t, serve (.writeMemory a v) s = .next (t, .nothing) ∧ t.readMem (a.setWidth 16) = v ∧
      OnlyChanges (fun q => q = .memByte a) s t) ∧
    (∀ t, step s = .next t → serve .step s = .next (t, .tone t.tone)) ∧
    serve .init s = .next (s.hostInit, .nothing)

/-- R74, R284: the loader puts an image within its contract verbatim from 0x200 up, and changes nothing else (D16,
log entry 15). -/
def Obligations.LoaderCopiesTheImage : Prop :=
  ∀ (s : State) (image : List Byte), imageWf image = true →
    (∀ (k : Nat) (h : k < image.length), (s.loadImage image).readMem (BitVec.ofNat 16 (0x200 + k)) = image[k]) ∧
    OnlyChanges (fun q => ∃ k, k < image.length ∧ q = .memByte (BitVec.ofNat 12 (0x200 + k))) s (s.loadImage image)
end

