-- ==== Sys2Proof/Laws/Decode.lean ====
section
/-! SUPPORT. The fields of a word: what fixes a word, what the fixed bits of an opcode row say of its fields, and the
fields of an assembled word. -/

namespace Sys2Proof

/-- The fixed bits of a row with mask 0xF000 give the family. -/
theorem fieldFamily_of_mask {w fixed : Word} (h : w &&& 0xF000 = fixed) : fieldFamily w = fieldFamily fixed := by
  subst h; ext k hk; revert hk
  rcases k with _ | _ | _ | _ | k <;> simp [fieldFamily]

/-- The fixed bits of a row with mask 0xF00F give the family and the selector `n`. -/
theorem fieldFamily_fieldN_of_mask {w fixed : Word} (h : w &&& 0xF00F = fixed) :
    fieldFamily w = fieldFamily fixed ∧ fieldN w = fieldN fixed := by
  subst h
  constructor <;>
  · ext k hk; revert hk
    rcases k with _ | _ | _ | _ | k <;> simp [fieldFamily, fieldN]

/-- The fixed bits of a row with mask 0xF0FF give the family and the selector `kk`. -/
theorem fieldFamily_fieldKK_of_mask {w fixed : Word} (h : w &&& 0xF0FF = fixed) :
    fieldFamily w = fieldFamily fixed ∧ fieldKK w = fieldKK fixed := by
  subst h
  constructor
  · ext k hk; revert hk
    rcases k with _ | _ | _ | _ | k <;> simp [fieldFamily]
  · ext k hk; revert hk
    rcases k with _ | _ | _ | _ | _ | _ | _ | _ | k <;> simp [fieldKK]

/-- A word is its four nibbles. -/
theorem word_eq_nibbles (w : Word) : w = fieldFamily w ++ fieldX w ++ fieldY w ++ fieldN w := by
  apply BitVec.eq_of_getLsbD_eq
  intro k hk
  simp only [fieldFamily, fieldX, fieldY, fieldN, BitVec.getLsbD_append, BitVec.getLsbD_extractLsb']
  interval_cases k <;> simp

/-- An address field is the nibbles `x`, `y`, `n`. -/
theorem fieldNNN_eq (w : Word) : fieldNNN w = fieldX w ++ fieldY w ++ fieldN w := by
  apply BitVec.eq_of_getLsbD_eq
  intro k hk
  simp only [fieldNNN, fieldX, fieldY, fieldN, BitVec.getLsbD_append, BitVec.getLsbD_extractLsb']
  interval_cases k <;> simp

/-- A byte field is the nibbles `y`, `n`. -/
theorem fieldKK_eq (w : Word) : fieldKK w = fieldY w ++ fieldN w := by
  apply BitVec.eq_of_getLsbD_eq
  intro k hk
  simp only [fieldKK, fieldY, fieldN, BitVec.getLsbD_append, BitVec.getLsbD_extractLsb']
  interval_cases k <;> simp

end Sys2Proof
end

