-- ==== Sys2Proof/Laws/State.lean ====
section
/-! SUPPORT. One lemma per field of the state per update: what the update writes, and that it writes nothing else. -/

namespace Sys2Proof.Machine

variable (s : State)

/-! ### setReg -/

@[simp] theorem State.setReg_cfg (x : Nibble) (v : Byte) : (s.setReg x v).cfg = s.cfg := rfl
@[simp] theorem State.setReg_regs (x : Nibble) (v : Byte) : (s.setReg x v).regs = s.regs.set x.toNat v x.isLt := rfl
@[simp] theorem State.setReg_pc (x : Nibble) (v : Byte) : (s.setReg x v).pc = s.pc := rfl
@[simp] theorem State.setReg_I (x : Nibble) (v : Byte) : (s.setReg x v).I = s.I := rfl
@[simp] theorem State.setReg_stack (x : Nibble) (v : Byte) : (s.setReg x v).stack = s.stack := rfl
@[simp] theorem State.setReg_sp (x : Nibble) (v : Byte) : (s.setReg x v).sp = s.sp := rfl
@[simp] theorem State.setReg_DT (x : Nibble) (v : Byte) : (s.setReg x v).DT = s.DT := rfl
@[simp] theorem State.setReg_ST (x : Nibble) (v : Byte) : (s.setReg x v).ST = s.ST := rfl
@[simp] theorem State.setReg_keypad (x : Nibble) (v : Byte) : (s.setReg x v).keypad = s.keypad := rfl
@[simp] theorem State.setReg_fb (x : Nibble) (v : Byte) : (s.setReg x v).fb = s.fb := rfl
@[simp] theorem State.setReg_ir (x : Nibble) (v : Byte) : (s.setReg x v).ir = s.ir := rfl
@[simp] theorem State.setReg_tone (x : Nibble) (v : Byte) : (s.setReg x v).tone = s.tone := rfl
@[simp] theorem State.setReg_mem (x : Nibble) (v : Byte) : (s.setReg x v).mem = s.mem := rfl
@[simp] theorem State.setReg_callDepth (x : Nibble) (v : Byte) : (s.setReg x v).callDepth = s.callDepth := rfl
@[simp] theorem State.setReg_draws (x : Nibble) (v : Byte) : (s.setReg x v).draws = s.draws := rfl
@[simp] theorem State.setReg_stackSlot (x : Nibble) (v : Byte) (j : Nibble) : (s.setReg x v).stackSlot j = s.stackSlot j := rfl
@[simp] theorem State.setReg_keyPressed (x : Nibble) (v : Byte) (k : Nibble) : (s.setReg x v).keyPressed k = s.keyPressed k := rfl
@[simp] theorem State.setReg_pixel (x : Nibble) (v : Byte) (q : Fin 2048) : (s.setReg x v).pixel q = s.pixel q := rfl
@[simp] theorem State.setReg_readMem (x : Nibble) (v : Byte) (b : Word) : (s.setReg x v).readMem b = s.readMem b := rfl
@[simp] theorem State.setReg_drawnByte (x : Nibble) (v : Byte) : (s.setReg x v).drawnByte = s.drawnByte := rfl

/-! ### setFlag -/

@[simp] theorem State.setFlag_cfg (f : Bool) : (s.setFlag f).cfg = s.cfg := rfl
@[simp] theorem State.setFlag_regs (f : Bool) : (s.setFlag f).regs = s.regs.set flagReg.toNat (flagByte f) flagReg.isLt := rfl
@[simp] theorem State.setFlag_pc (f : Bool) : (s.setFlag f).pc = s.pc := rfl
@[simp] theorem State.setFlag_I (f : Bool) : (s.setFlag f).I = s.I := rfl
@[simp] theorem State.setFlag_stack (f : Bool) : (s.setFlag f).stack = s.stack := rfl
@[simp] theorem State.setFlag_sp (f : Bool) : (s.setFlag f).sp = s.sp := rfl
@[simp] theorem State.setFlag_DT (f : Bool) : (s.setFlag f).DT = s.DT := rfl
@[simp] theorem State.setFlag_ST (f : Bool) : (s.setFlag f).ST = s.ST := rfl
@[simp] theorem State.setFlag_keypad (f : Bool) : (s.setFlag f).keypad = s.keypad := rfl
@[simp] theorem State.setFlag_fb (f : Bool) : (s.setFlag f).fb = s.fb := rfl
@[simp] theorem State.setFlag_ir (f : Bool) : (s.setFlag f).ir = s.ir := rfl
@[simp] theorem State.setFlag_tone (f : Bool) : (s.setFlag f).tone = s.tone := rfl
@[simp] theorem State.setFlag_mem (f : Bool) : (s.setFlag f).mem = s.mem := rfl
@[simp] theorem State.setFlag_callDepth (f : Bool) : (s.setFlag f).callDepth = s.callDepth := rfl
@[simp] theorem State.setFlag_draws (f : Bool) : (s.setFlag f).draws = s.draws := rfl
@[simp] theorem State.setFlag_stackSlot (f : Bool) (j : Nibble) : (s.setFlag f).stackSlot j = s.stackSlot j := rfl
@[simp] theorem State.setFlag_keyPressed (f : Bool) (k : Nibble) : (s.setFlag f).keyPressed k = s.keyPressed k := rfl
@[simp] theorem State.setFlag_pixel (f : Bool) (q : Fin 2048) : (s.setFlag f).pixel q = s.pixel q := rfl
@[simp] theorem State.setFlag_readMem (f : Bool) (b : Word) : (s.setFlag f).readMem b = s.readMem b := rfl
@[simp] theorem State.setFlag_drawnByte (f : Bool) : (s.setFlag f).drawnByte = s.drawnByte := rfl

/-! ### setPc -/

@[simp] theorem State.setPc_cfg (v : Word) : (s.setPc v).cfg = s.cfg := rfl
@[simp] theorem State.setPc_regs (v : Word) : (s.setPc v).regs = s.regs := rfl
@[simp] theorem State.setPc_pc (v : Word) : (s.setPc v).pc = v := rfl
@[simp] theorem State.setPc_I (v : Word) : (s.setPc v).I = s.I := rfl
@[simp] theorem State.setPc_stack (v : Word) : (s.setPc v).stack = s.stack := rfl
@[simp] theorem State.setPc_sp (v : Word) : (s.setPc v).sp = s.sp := rfl
@[simp] theorem State.setPc_DT (v : Word) : (s.setPc v).DT = s.DT := rfl
@[simp] theorem State.setPc_ST (v : Word) : (s.setPc v).ST = s.ST := rfl
@[simp] theorem State.setPc_keypad (v : Word) : (s.setPc v).keypad = s.keypad := rfl
@[simp] theorem State.setPc_fb (v : Word) : (s.setPc v).fb = s.fb := rfl
@[simp] theorem State.setPc_ir (v : Word) : (s.setPc v).ir = s.ir := rfl
@[simp] theorem State.setPc_tone (v : Word) : (s.setPc v).tone = s.tone := rfl
@[simp] theorem State.setPc_mem (v : Word) : (s.setPc v).mem = s.mem := rfl
@[simp] theorem State.setPc_callDepth (v : Word) : (s.setPc v).callDepth = s.callDepth := rfl
@[simp] theorem State.setPc_draws (v : Word) : (s.setPc v).draws = s.draws := rfl
@[simp] theorem State.setPc_reg (v : Word) (y : Nibble) : (s.setPc v).reg y = s.reg y := rfl
@[simp] theorem State.setPc_stackSlot (v : Word) (j : Nibble) : (s.setPc v).stackSlot j = s.stackSlot j := rfl
@[simp] theorem State.setPc_keyPressed (v : Word) (k : Nibble) : (s.setPc v).keyPressed k = s.keyPressed k := rfl
@[simp] theorem State.setPc_pixel (v : Word) (q : Fin 2048) : (s.setPc v).pixel q = s.pixel q := rfl
@[simp] theorem State.setPc_readMem (v : Word) (b : Word) : (s.setPc v).readMem b = s.readMem b := rfl
@[simp] theorem State.setPc_drawnByte (v : Word) : (s.setPc v).drawnByte = s.drawnByte := rfl

/-! ### setI -/

@[simp] theorem State.setI_cfg (v : Word) : (s.setI v).cfg = s.cfg := rfl
@[simp] theorem State.setI_regs (v : Word) : (s.setI v).regs = s.regs := rfl
@[simp] theorem State.setI_pc (v : Word) : (s.setI v).pc = s.pc := rfl
@[simp] theorem State.setI_I (v : Word) : (s.setI v).I = v := rfl
@[simp] theorem State.setI_stack (v : Word) : (s.setI v).stack = s.stack := rfl
@[simp] theorem State.setI_sp (v : Word) : (s.setI v).sp = s.sp := rfl
@[simp] theorem State.setI_DT (v : Word) : (s.setI v).DT = s.DT := rfl
@[simp] theorem State.setI_ST (v : Word) : (s.setI v).ST = s.ST := rfl
@[simp] theorem State.setI_keypad (v : Word) : (s.setI v).keypad = s.keypad := rfl
@[simp] theorem State.setI_fb (v : Word) : (s.setI v).fb = s.fb := rfl
@[simp] theorem State.setI_ir (v : Word) : (s.setI v).ir = s.ir := rfl
@[simp] theorem State.setI_tone (v : Word) : (s.setI v).tone = s.tone := rfl
@[simp] theorem State.setI_mem (v : Word) : (s.setI v).mem = s.mem := rfl
@[simp] theorem State.setI_callDepth (v : Word) : (s.setI v).callDepth = s.callDepth := rfl
@[simp] theorem State.setI_draws (v : Word) : (s.setI v).draws = s.draws := rfl
@[simp] theorem State.setI_reg (v : Word) (y : Nibble) : (s.setI v).reg y = s.reg y := rfl
@[simp] theorem State.setI_stackSlot (v : Word) (j : Nibble) : (s.setI v).stackSlot j = s.stackSlot j := rfl
@[simp] theorem State.setI_keyPressed (v : Word) (k : Nibble) : (s.setI v).keyPressed k = s.keyPressed k := rfl
@[simp] theorem State.setI_pixel (v : Word) (q : Fin 2048) : (s.setI v).pixel q = s.pixel q := rfl
@[simp] theorem State.setI_readMem (v : Word) (b : Word) : (s.setI v).readMem b = s.readMem b := rfl
@[simp] theorem State.setI_drawnByte (v : Word) : (s.setI v).drawnByte = s.drawnByte := rfl

/-! ### push -/

@[simp] theorem State.push_cfg (v : Word) : (s.push v).cfg = s.cfg := rfl
@[simp] theorem State.push_regs (v : Word) : (s.push v).regs = s.regs := rfl
@[simp] theorem State.push_pc (v : Word) : (s.push v).pc = s.pc := rfl
@[simp] theorem State.push_I (v : Word) : (s.push v).I = s.I := rfl
@[simp] theorem State.push_stack (v : Word) : (s.push v).stack = s.stack.set s.sp.toNat v s.sp.isLt := rfl
@[simp] theorem State.push_sp (v : Word) : (s.push v).sp = s.sp + 1 := rfl
@[simp] theorem State.push_DT (v : Word) : (s.push v).DT = s.DT := rfl
@[simp] theorem State.push_ST (v : Word) : (s.push v).ST = s.ST := rfl
@[simp] theorem State.push_keypad (v : Word) : (s.push v).keypad = s.keypad := rfl
@[simp] theorem State.push_fb (v : Word) : (s.push v).fb = s.fb := rfl
@[simp] theorem State.push_ir (v : Word) : (s.push v).ir = s.ir := rfl
@[simp] theorem State.push_tone (v : Word) : (s.push v).tone = s.tone := rfl
@[simp] theorem State.push_mem (v : Word) : (s.push v).mem = s.mem := rfl
@[simp] theorem State.push_callDepth (v : Word) : (s.push v).callDepth = s.callDepth + 1 := rfl
@[simp] theorem State.push_draws (v : Word) : (s.push v).draws = s.draws := rfl
@[simp] theorem State.push_reg (v : Word) (y : Nibble) : (s.push v).reg y = s.reg y := rfl
@[simp] theorem State.push_keyPressed (v : Word) (k : Nibble) : (s.push v).keyPressed k = s.keyPressed k := rfl
@[simp] theorem State.push_pixel (v : Word) (q : Fin 2048) : (s.push v).pixel q = s.pixel q := rfl
@[simp] theorem State.push_readMem (v : Word) (b : Word) : (s.push v).readMem b = s.readMem b := rfl
@[simp] theorem State.push_drawnByte (v : Word) : (s.push v).drawnByte = s.drawnByte := rfl

/-! ### pop -/

@[simp] theorem State.pop_cfg : s.pop.cfg = s.cfg := rfl
@[simp] theorem State.pop_regs : s.pop.regs = s.regs := rfl
@[simp] theorem State.pop_pc : s.pop.pc = s.pc := rfl
@[simp] theorem State.pop_I : s.pop.I = s.I := rfl
@[simp] theorem State.pop_stack : s.pop.stack = s.stack := rfl
@[simp] theorem State.pop_sp : s.pop.sp = s.sp - 1 := rfl
@[simp] theorem State.pop_DT : s.pop.DT = s.DT := rfl
@[simp] theorem State.pop_ST : s.pop.ST = s.ST := rfl
@[simp] theorem State.pop_keypad : s.pop.keypad = s.keypad := rfl
@[simp] theorem State.pop_fb : s.pop.fb = s.fb := rfl
@[simp] theorem State.pop_ir : s.pop.ir = s.ir := rfl
@[simp] theorem State.pop_tone : s.pop.tone = s.tone := rfl
@[simp] theorem State.pop_mem : s.pop.mem = s.mem := rfl
@[simp] theorem State.pop_callDepth : s.pop.callDepth = s.callDepth - 1 := rfl
@[simp] theorem State.pop_draws : s.pop.draws = s.draws := rfl
@[simp] theorem State.pop_reg (y : Nibble) : s.pop.reg y = s.reg y := rfl
@[simp] theorem State.pop_stackSlot (j : Nibble) : s.pop.stackSlot j = s.stackSlot j := rfl
@[simp] theorem State.pop_keyPressed (k : Nibble) : s.pop.keyPressed k = s.keyPressed k := rfl
@[simp] theorem State.pop_pixel (q : Fin 2048) : s.pop.pixel q = s.pixel q := rfl
@[simp] theorem State.pop_readMem (b : Word) : s.pop.readMem b = s.readMem b := rfl
@[simp] theorem State.pop_drawnByte : s.pop.drawnByte = s.drawnByte := rfl

/-! ### setDT -/

@[simp] theorem State.setDT_cfg (v : Byte) : (s.setDT v).cfg = s.cfg := rfl
@[simp] theorem State.setDT_regs (v : Byte) : (s.setDT v).regs = s.regs := rfl
@[simp] theorem State.setDT_pc (v : Byte) : (s.setDT v).pc = s.pc := rfl
@[simp] theorem State.setDT_I (v : Byte) : (s.setDT v).I = s.I := rfl
@[simp] theorem State.setDT_stack (v : Byte) : (s.setDT v).stack = s.stack := rfl
@[simp] theorem State.setDT_sp (v : Byte) : (s.setDT v).sp = s.sp := rfl
@[simp] theorem State.setDT_DT (v : Byte) : (s.setDT v).DT = v := rfl
@[simp] theorem State.setDT_ST (v : Byte) : (s.setDT v).ST = s.ST := rfl
@[simp] theorem State.setDT_keypad (v : Byte) : (s.setDT v).keypad = s.keypad := rfl
@[simp] theorem State.setDT_fb (v : Byte) : (s.setDT v).fb = s.fb := rfl
@[simp] theorem State.setDT_ir (v : Byte) : (s.setDT v).ir = s.ir := rfl
@[simp] theorem State.setDT_tone (v : Byte) : (s.setDT v).tone = s.tone := rfl
@[simp] theorem State.setDT_mem (v : Byte) : (s.setDT v).mem = s.mem := rfl
@[simp] theorem State.setDT_callDepth (v : Byte) : (s.setDT v).callDepth = s.callDepth := rfl
@[simp] theorem State.setDT_draws (v : Byte) : (s.setDT v).draws = s.draws := rfl
@[simp] theorem State.setDT_reg (v : Byte) (y : Nibble) : (s.setDT v).reg y = s.reg y := rfl
@[simp] theorem State.setDT_stackSlot (v : Byte) (j : Nibble) : (s.setDT v).stackSlot j = s.stackSlot j := rfl
@[simp] theorem State.setDT_keyPressed (v : Byte) (k : Nibble) : (s.setDT v).keyPressed k = s.keyPressed k := rfl
@[simp] theorem State.setDT_pixel (v : Byte) (q : Fin 2048) : (s.setDT v).pixel q = s.pixel q := rfl
@[simp] theorem State.setDT_readMem (v : Byte) (b : Word) : (s.setDT v).readMem b = s.readMem b := rfl
@[simp] theorem State.setDT_drawnByte (v : Byte) : (s.setDT v).drawnByte = s.drawnByte := rfl

/-! ### setST -/

@[simp] theorem State.setST_cfg (v : Byte) : (s.setST v).cfg = s.cfg := rfl
@[simp] theorem State.setST_regs (v : Byte) : (s.setST v).regs = s.regs := rfl
@[simp] theorem State.setST_pc (v : Byte) : (s.setST v).pc = s.pc := rfl
@[simp] theorem State.setST_I (v : Byte) : (s.setST v).I = s.I := rfl
@[simp] theorem State.setST_stack (v : Byte) : (s.setST v).stack = s.stack := rfl
@[simp] theorem State.setST_sp (v : Byte) : (s.setST v).sp = s.sp := rfl
@[simp] theorem State.setST_DT (v : Byte) : (s.setST v).DT = s.DT := rfl
@[simp] theorem State.setST_ST (v : Byte) : (s.setST v).ST = v := rfl
@[simp] theorem State.setST_keypad (v : Byte) : (s.setST v).keypad = s.keypad := rfl
@[simp] theorem State.setST_fb (v : Byte) : (s.setST v).fb = s.fb := rfl
@[simp] theorem State.setST_ir (v : Byte) : (s.setST v).ir = s.ir := rfl
@[simp] theorem State.setST_tone (v : Byte) : (s.setST v).tone = s.tone := rfl
@[simp] theorem State.setST_mem (v : Byte) : (s.setST v).mem = s.mem := rfl
@[simp] theorem State.setST_callDepth (v : Byte) : (s.setST v).callDepth = s.callDepth := rfl
@[simp] theorem State.setST_draws (v : Byte) : (s.setST v).draws = s.draws := rfl
@[simp] theorem State.setST_reg (v : Byte) (y : Nibble) : (s.setST v).reg y = s.reg y := rfl
@[simp] theorem State.setST_stackSlot (v : Byte) (j : Nibble) : (s.setST v).stackSlot j = s.stackSlot j := rfl
@[simp] theorem State.setST_keyPressed (v : Byte) (k : Nibble) : (s.setST v).keyPressed k = s.keyPressed k := rfl
@[simp] theorem State.setST_pixel (v : Byte) (q : Fin 2048) : (s.setST v).pixel q = s.pixel q := rfl
@[simp] theorem State.setST_readMem (v : Byte) (b : Word) : (s.setST v).readMem b = s.readMem b := rfl
@[simp] theorem State.setST_drawnByte (v : Byte) : (s.setST v).drawnByte = s.drawnByte := rfl

/-! ### togglePixel -/

@[simp] theorem State.togglePixel_cfg (p : Fin 2048) : (s.togglePixel p).cfg = s.cfg := rfl
@[simp] theorem State.togglePixel_regs (p : Fin 2048) : (s.togglePixel p).regs = s.regs := rfl
@[simp] theorem State.togglePixel_pc (p : Fin 2048) : (s.togglePixel p).pc = s.pc := rfl
@[simp] theorem State.togglePixel_I (p : Fin 2048) : (s.togglePixel p).I = s.I := rfl
@[simp] theorem State.togglePixel_stack (p : Fin 2048) : (s.togglePixel p).stack = s.stack := rfl
@[simp] theorem State.togglePixel_sp (p : Fin 2048) : (s.togglePixel p).sp = s.sp := rfl
@[simp] theorem State.togglePixel_DT (p : Fin 2048) : (s.togglePixel p).DT = s.DT := rfl
@[simp] theorem State.togglePixel_ST (p : Fin 2048) : (s.togglePixel p).ST = s.ST := rfl
@[simp] theorem State.togglePixel_keypad (p : Fin 2048) : (s.togglePixel p).keypad = s.keypad := rfl
@[simp] theorem State.togglePixel_ir (p : Fin 2048) : (s.togglePixel p).ir = s.ir := rfl
@[simp] theorem State.togglePixel_tone (p : Fin 2048) : (s.togglePixel p).tone = s.tone := rfl
@[simp] theorem State.togglePixel_mem (p : Fin 2048) : (s.togglePixel p).mem = s.mem := rfl
@[simp] theorem State.togglePixel_callDepth (p : Fin 2048) : (s.togglePixel p).callDepth = s.callDepth := rfl
@[simp] theorem State.togglePixel_draws (p : Fin 2048) : (s.togglePixel p).draws = s.draws := rfl
@[simp] theorem State.togglePixel_reg (p : Fin 2048) (y : Nibble) : (s.togglePixel p).reg y = s.reg y := rfl
@[simp] theorem State.togglePixel_stackSlot (p : Fin 2048) (j : Nibble) : (s.togglePixel p).stackSlot j = s.stackSlot j := rfl
@[simp] theorem State.togglePixel_keyPressed (p : Fin 2048) (k : Nibble) : (s.togglePixel p).keyPressed k = s.keyPressed k := rfl
@[simp] theorem State.togglePixel_readMem (p : Fin 2048) (b : Word) : (s.togglePixel p).readMem b = s.readMem b := rfl
@[simp] theorem State.togglePixel_drawnByte (p : Fin 2048) : (s.togglePixel p).drawnByte = s.drawnByte := rfl

/-! ### clearPixels -/

@[simp] theorem State.clearPixels_cfg : s.clearPixels.cfg = s.cfg := rfl
@[simp] theorem State.clearPixels_regs : s.clearPixels.regs = s.regs := rfl
@[simp] theorem State.clearPixels_pc : s.clearPixels.pc = s.pc := rfl
@[simp] theorem State.clearPixels_I : s.clearPixels.I = s.I := rfl
@[simp] theorem State.clearPixels_stack : s.clearPixels.stack = s.stack := rfl
@[simp] theorem State.clearPixels_sp : s.clearPixels.sp = s.sp := rfl
@[simp] theorem State.clearPixels_DT : s.clearPixels.DT = s.DT := rfl
@[simp] theorem State.clearPixels_ST : s.clearPixels.ST = s.ST := rfl
@[simp] theorem State.clearPixels_keypad : s.clearPixels.keypad = s.keypad := rfl
@[simp] theorem State.clearPixels_fb : s.clearPixels.fb = Vector.replicate 32 0 := rfl
@[simp] theorem State.clearPixels_ir : s.clearPixels.ir = s.ir := rfl
@[simp] theorem State.clearPixels_tone : s.clearPixels.tone = s.tone := rfl
@[simp] theorem State.clearPixels_mem : s.clearPixels.mem = s.mem := rfl
@[simp] theorem State.clearPixels_callDepth : s.clearPixels.callDepth = s.callDepth := rfl
@[simp] theorem State.clearPixels_draws : s.clearPixels.draws = s.draws := rfl
@[simp] theorem State.clearPixels_reg (y : Nibble) : s.clearPixels.reg y = s.reg y := rfl
@[simp] theorem State.clearPixels_stackSlot (j : Nibble) : s.clearPixels.stackSlot j = s.stackSlot j := rfl
@[simp] theorem State.clearPixels_keyPressed (k : Nibble) : s.clearPixels.keyPressed k = s.keyPressed k := rfl
@[simp] theorem State.clearPixels_readMem (b : Word) : s.clearPixels.readMem b = s.readMem b := rfl
@[simp] theorem State.clearPixels_drawnByte : s.clearPixels.drawnByte = s.drawnByte := rfl

/-! ### writeMem -/

@[simp] theorem State.writeMem_cfg (a : Word) (v : Byte) : (s.writeMem a v).cfg = s.cfg := rfl
@[simp] theorem State.writeMem_regs (a : Word) (v : Byte) : (s.writeMem a v).regs = s.regs := rfl
@[simp] theorem State.writeMem_pc (a : Word) (v : Byte) : (s.writeMem a v).pc = s.pc := rfl
@[simp] theorem State.writeMem_I (a : Word) (v : Byte) : (s.writeMem a v).I = s.I := rfl
@[simp] theorem State.writeMem_stack (a : Word) (v : Byte) : (s.writeMem a v).stack = s.stack := rfl
@[simp] theorem State.writeMem_sp (a : Word) (v : Byte) : (s.writeMem a v).sp = s.sp := rfl
@[simp] theorem State.writeMem_DT (a : Word) (v : Byte) : (s.writeMem a v).DT = s.DT := rfl
@[simp] theorem State.writeMem_ST (a : Word) (v : Byte) : (s.writeMem a v).ST = s.ST := rfl
@[simp] theorem State.writeMem_keypad (a : Word) (v : Byte) : (s.writeMem a v).keypad = s.keypad := rfl
@[simp] theorem State.writeMem_fb (a : Word) (v : Byte) : (s.writeMem a v).fb = s.fb := rfl
@[simp] theorem State.writeMem_ir (a : Word) (v : Byte) : (s.writeMem a v).ir = s.ir := rfl
@[simp] theorem State.writeMem_tone (a : Word) (v : Byte) : (s.writeMem a v).tone = s.tone := rfl
@[simp] theorem State.writeMem_mem (a : Word) (v : Byte) : (s.writeMem a v).mem = Memory.write s.cfg s.mem (memAddr a) v := rfl
@[simp] theorem State.writeMem_callDepth (a : Word) (v : Byte) : (s.writeMem a v).callDepth = s.callDepth := rfl
@[simp] theorem State.writeMem_draws (a : Word) (v : Byte) : (s.writeMem a v).draws = s.draws := rfl
@[simp] theorem State.writeMem_reg (a : Word) (v : Byte) (y : Nibble) : (s.writeMem a v).reg y = s.reg y := rfl
@[simp] theorem State.writeMem_stackSlot (a : Word) (v : Byte) (j : Nibble) : (s.writeMem a v).stackSlot j = s.stackSlot j := rfl
@[simp] theorem State.writeMem_keyPressed (a : Word) (v : Byte) (k : Nibble) : (s.writeMem a v).keyPressed k = s.keyPressed k := rfl
@[simp] theorem State.writeMem_pixel (a : Word) (v : Byte) (q : Fin 2048) : (s.writeMem a v).pixel q = s.pixel q := rfl
@[simp] theorem State.writeMem_drawnByte (a : Word) (v : Byte) : (s.writeMem a v).drawnByte = s.drawnByte := rfl

/-! ### countDraw -/

@[simp] theorem State.countDraw_cfg : s.countDraw.cfg = s.cfg := rfl
@[simp] theorem State.countDraw_regs : s.countDraw.regs = s.regs := rfl
@[simp] theorem State.countDraw_pc : s.countDraw.pc = s.pc := rfl
@[simp] theorem State.countDraw_I : s.countDraw.I = s.I := rfl
@[simp] theorem State.countDraw_stack : s.countDraw.stack = s.stack := rfl
@[simp] theorem State.countDraw_sp : s.countDraw.sp = s.sp := rfl
@[simp] theorem State.countDraw_DT : s.countDraw.DT = s.DT := rfl
@[simp] theorem State.countDraw_ST : s.countDraw.ST = s.ST := rfl
@[simp] theorem State.countDraw_keypad : s.countDraw.keypad = s.keypad := rfl
@[simp] theorem State.countDraw_fb : s.countDraw.fb = s.fb := rfl
@[simp] theorem State.countDraw_ir : s.countDraw.ir = s.ir := rfl
@[simp] theorem State.countDraw_tone : s.countDraw.tone = s.tone := rfl
@[simp] theorem State.countDraw_mem : s.countDraw.mem = s.mem := rfl
@[simp] theorem State.countDraw_callDepth : s.countDraw.callDepth = s.callDepth := rfl
@[simp] theorem State.countDraw_draws : s.countDraw.draws = s.draws + 1 := rfl
@[simp] theorem State.countDraw_reg (y : Nibble) : s.countDraw.reg y = s.reg y := rfl
@[simp] theorem State.countDraw_stackSlot (j : Nibble) : s.countDraw.stackSlot j = s.stackSlot j := rfl
@[simp] theorem State.countDraw_keyPressed (k : Nibble) : s.countDraw.keyPressed k = s.keyPressed k := rfl
@[simp] theorem State.countDraw_pixel (q : Fin 2048) : s.countDraw.pixel q = s.pixel q := rfl
@[simp] theorem State.countDraw_readMem (b : Word) : s.countDraw.readMem b = s.readMem b := rfl

/-! ### fetch -/

@[simp] theorem State.fetch_cfg : s.fetch.cfg = s.cfg := rfl
@[simp] theorem State.fetch_regs : s.fetch.regs = s.regs := rfl
@[simp] theorem State.fetch_pc : s.fetch.pc = s.pc := rfl
@[simp] theorem State.fetch_I : s.fetch.I = s.I := rfl
@[simp] theorem State.fetch_stack : s.fetch.stack = s.stack := rfl
@[simp] theorem State.fetch_sp : s.fetch.sp = s.sp := rfl
@[simp] theorem State.fetch_DT : s.fetch.DT = s.DT := rfl
@[simp] theorem State.fetch_ST : s.fetch.ST = s.ST := rfl
@[simp] theorem State.fetch_keypad : s.fetch.keypad = s.keypad := rfl
@[simp] theorem State.fetch_fb : s.fetch.fb = s.fb := rfl
@[simp] theorem State.fetch_ir : s.fetch.ir = s.fetchedWord := rfl
@[simp] theorem State.fetch_tone : s.fetch.tone = s.tone := rfl
@[simp] theorem State.fetch_mem : s.fetch.mem = s.mem := rfl
@[simp] theorem State.fetch_callDepth : s.fetch.callDepth = s.callDepth := rfl
@[simp] theorem State.fetch_draws : s.fetch.draws = s.draws := rfl
@[simp] theorem State.fetch_reg (y : Nibble) : s.fetch.reg y = s.reg y := rfl
@[simp] theorem State.fetch_stackSlot (j : Nibble) : s.fetch.stackSlot j = s.stackSlot j := rfl
@[simp] theorem State.fetch_keyPressed (k : Nibble) : s.fetch.keyPressed k = s.keyPressed k := rfl
@[simp] theorem State.fetch_pixel (q : Fin 2048) : s.fetch.pixel q = s.pixel q := rfl
@[simp] theorem State.fetch_readMem (b : Word) : s.fetch.readMem b = s.readMem b := rfl
@[simp] theorem State.fetch_drawnByte : s.fetch.drawnByte = s.drawnByte := rfl

/-! ### advance -/

@[simp] theorem State.advance_cfg : s.advance.cfg = s.cfg := rfl
@[simp] theorem State.advance_regs : s.advance.regs = s.regs := rfl
@[simp] theorem State.advance_pc : s.advance.pc = s.pc + 2 := rfl
@[simp] theorem State.advance_I : s.advance.I = s.I := rfl
@[simp] theorem State.advance_stack : s.advance.stack = s.stack := rfl
@[simp] theorem State.advance_sp : s.advance.sp = s.sp := rfl
@[simp] theorem State.advance_DT : s.advance.DT = s.DT := rfl
@[simp] theorem State.advance_ST : s.advance.ST = s.ST := rfl
@[simp] theorem State.advance_keypad : s.advance.keypad = s.keypad := rfl
@[simp] theorem State.advance_fb : s.advance.fb = s.fb := rfl
@[simp] theorem State.advance_ir : s.advance.ir = s.ir := rfl
@[simp] theorem State.advance_tone : s.advance.tone = s.tone := rfl
@[simp] theorem State.advance_mem : s.advance.mem = s.mem := rfl
@[simp] theorem State.advance_callDepth : s.advance.callDepth = s.callDepth := rfl
@[simp] theorem State.advance_draws : s.advance.draws = s.draws := rfl
@[simp] theorem State.advance_reg (y : Nibble) : s.advance.reg y = s.reg y := rfl
@[simp] theorem State.advance_stackSlot (j : Nibble) : s.advance.stackSlot j = s.stackSlot j := rfl
@[simp] theorem State.advance_keyPressed (k : Nibble) : s.advance.keyPressed k = s.keyPressed k := rfl
@[simp] theorem State.advance_pixel (q : Fin 2048) : s.advance.pixel q = s.pixel q := rfl
@[simp] theorem State.advance_readMem (b : Word) : s.advance.readMem b = s.readMem b := rfl
@[simp] theorem State.advance_drawnByte : s.advance.drawnByte = s.drawnByte := rfl

/-! ### tickSound -/

@[simp] theorem State.tickSound_cfg : s.tickSound.cfg = s.cfg := rfl
@[simp] theorem State.tickSound_regs : s.tickSound.regs = s.regs := rfl
@[simp] theorem State.tickSound_pc : s.tickSound.pc = s.pc := rfl
@[simp] theorem State.tickSound_I : s.tickSound.I = s.I := rfl
@[simp] theorem State.tickSound_stack : s.tickSound.stack = s.stack := rfl
@[simp] theorem State.tickSound_sp : s.tickSound.sp = s.sp := rfl
@[simp] theorem State.tickSound_DT : s.tickSound.DT = s.DT := rfl
@[simp] theorem State.tickSound_ST : s.tickSound.ST = (if s.ST.toNat > 0 then s.ST - 1 else s.ST) := rfl
@[simp] theorem State.tickSound_keypad : s.tickSound.keypad = s.keypad := rfl
@[simp] theorem State.tickSound_fb : s.tickSound.fb = s.fb := rfl
@[simp] theorem State.tickSound_ir : s.tickSound.ir = s.ir := rfl
@[simp] theorem State.tickSound_tone : s.tickSound.tone = decide (s.ST = 1) := rfl
@[simp] theorem State.tickSound_mem : s.tickSound.mem = s.mem := rfl
@[simp] theorem State.tickSound_callDepth : s.tickSound.callDepth = s.callDepth := rfl
@[simp] theorem State.tickSound_draws : s.tickSound.draws = s.draws := rfl
@[simp] theorem State.tickSound_reg (y : Nibble) : s.tickSound.reg y = s.reg y := rfl
@[simp] theorem State.tickSound_stackSlot (j : Nibble) : s.tickSound.stackSlot j = s.stackSlot j := rfl
@[simp] theorem State.tickSound_keyPressed (k : Nibble) : s.tickSound.keyPressed k = s.keyPressed k := rfl
@[simp] theorem State.tickSound_pixel (q : Fin 2048) : s.tickSound.pixel q = s.pixel q := rfl
@[simp] theorem State.tickSound_readMem (b : Word) : s.tickSound.readMem b = s.readMem b := rfl
@[simp] theorem State.tickSound_drawnByte : s.tickSound.drawnByte = s.drawnByte := rfl

/-! ### hostKeypad -/

@[simp] theorem State.hostKeypad_cfg (keys : BitVec 16) : (s.hostKeypad keys).cfg = s.cfg := rfl
@[simp] theorem State.hostKeypad_regs (keys : BitVec 16) : (s.hostKeypad keys).regs = s.regs := rfl
@[simp] theorem State.hostKeypad_pc (keys : BitVec 16) : (s.hostKeypad keys).pc = s.pc := rfl
@[simp] theorem State.hostKeypad_I (keys : BitVec 16) : (s.hostKeypad keys).I = s.I := rfl
@[simp] theorem State.hostKeypad_stack (keys : BitVec 16) : (s.hostKeypad keys).stack = s.stack := rfl
@[simp] theorem State.hostKeypad_sp (keys : BitVec 16) : (s.hostKeypad keys).sp = s.sp := rfl
@[simp] theorem State.hostKeypad_DT (keys : BitVec 16) : (s.hostKeypad keys).DT = s.DT := rfl
@[simp] theorem State.hostKeypad_ST (keys : BitVec 16) : (s.hostKeypad keys).ST = s.ST := rfl
@[simp] theorem State.hostKeypad_keypad (keys : BitVec 16) : (s.hostKeypad keys).keypad = keys := rfl
@[simp] theorem State.hostKeypad_fb (keys : BitVec 16) : (s.hostKeypad keys).fb = s.fb := rfl
@[simp] theorem State.hostKeypad_ir (keys : BitVec 16) : (s.hostKeypad keys).ir = s.ir := rfl
@[simp] theorem State.hostKeypad_tone (keys : BitVec 16) : (s.hostKeypad keys).tone = s.tone := rfl
@[simp] theorem State.hostKeypad_mem (keys : BitVec 16) : (s.hostKeypad keys).mem = s.mem := rfl
@[simp] theorem State.hostKeypad_callDepth (keys : BitVec 16) : (s.hostKeypad keys).callDepth = s.callDepth := rfl
@[simp] theorem State.hostKeypad_draws (keys : BitVec 16) : (s.hostKeypad keys).draws = s.draws := rfl
@[simp] theorem State.hostKeypad_reg (keys : BitVec 16) (y : Nibble) : (s.hostKeypad keys).reg y = s.reg y := rfl
@[simp] theorem State.hostKeypad_stackSlot (keys : BitVec 16) (j : Nibble) : (s.hostKeypad keys).stackSlot j = s.stackSlot j := rfl
@[simp] theorem State.hostKeypad_pixel (keys : BitVec 16) (q : Fin 2048) : (s.hostKeypad keys).pixel q = s.pixel q := rfl
@[simp] theorem State.hostKeypad_readMem (keys : BitVec 16) (b : Word) : (s.hostKeypad keys).readMem b = s.readMem b := rfl
@[simp] theorem State.hostKeypad_drawnByte (keys : BitVec 16) : (s.hostKeypad keys).drawnByte = s.drawnByte := rfl

/-! ### hostLoad -/

@[simp] theorem State.hostLoad_cfg (a : Addr) (v : Byte) : (s.hostLoad a v).cfg = s.cfg := rfl
@[simp] theorem State.hostLoad_regs (a : Addr) (v : Byte) : (s.hostLoad a v).regs = s.regs := rfl
@[simp] theorem State.hostLoad_pc (a : Addr) (v : Byte) : (s.hostLoad a v).pc = s.pc := rfl
@[simp] theorem State.hostLoad_I (a : Addr) (v : Byte) : (s.hostLoad a v).I = s.I := rfl
@[simp] theorem State.hostLoad_stack (a : Addr) (v : Byte) : (s.hostLoad a v).stack = s.stack := rfl
@[simp] theorem State.hostLoad_sp (a : Addr) (v : Byte) : (s.hostLoad a v).sp = s.sp := rfl
@[simp] theorem State.hostLoad_DT (a : Addr) (v : Byte) : (s.hostLoad a v).DT = s.DT := rfl
@[simp] theorem State.hostLoad_ST (a : Addr) (v : Byte) : (s.hostLoad a v).ST = s.ST := rfl
@[simp] theorem State.hostLoad_keypad (a : Addr) (v : Byte) : (s.hostLoad a v).keypad = s.keypad := rfl
@[simp] theorem State.hostLoad_fb (a : Addr) (v : Byte) : (s.hostLoad a v).fb = s.fb := rfl
@[simp] theorem State.hostLoad_ir (a : Addr) (v : Byte) : (s.hostLoad a v).ir = s.ir := rfl
@[simp] theorem State.hostLoad_tone (a : Addr) (v : Byte) : (s.hostLoad a v).tone = s.tone := rfl
@[simp] theorem State.hostLoad_mem (a : Addr) (v : Byte) : (s.hostLoad a v).mem = Memory.write s.cfg s.mem (memAddr (a.setWidth 16)) v := rfl
@[simp] theorem State.hostLoad_callDepth (a : Addr) (v : Byte) : (s.hostLoad a v).callDepth = s.callDepth := rfl
@[simp] theorem State.hostLoad_draws (a : Addr) (v : Byte) : (s.hostLoad a v).draws = s.draws := rfl
@[simp] theorem State.hostLoad_reg (a : Addr) (v : Byte) (y : Nibble) : (s.hostLoad a v).reg y = s.reg y := rfl
@[simp] theorem State.hostLoad_stackSlot (a : Addr) (v : Byte) (j : Nibble) : (s.hostLoad a v).stackSlot j = s.stackSlot j := rfl
@[simp] theorem State.hostLoad_keyPressed (a : Addr) (v : Byte) (k : Nibble) : (s.hostLoad a v).keyPressed k = s.keyPressed k := rfl
@[simp] theorem State.hostLoad_pixel (a : Addr) (v : Byte) (q : Fin 2048) : (s.hostLoad a v).pixel q = s.pixel q := rfl
@[simp] theorem State.hostLoad_drawnByte (a : Addr) (v : Byte) : (s.hostLoad a v).drawnByte = s.drawnByte := rfl

/-! ### skipIf -/

@[simp] theorem State.skipIf_cfg (c : Bool) : (s.skipIf c).cfg = s.cfg := by unfold State.skipIf; split <;> rfl
@[simp] theorem State.skipIf_regs (c : Bool) : (s.skipIf c).regs = s.regs := by unfold State.skipIf; split <;> rfl
@[simp] theorem State.skipIf_pc (c : Bool) : (s.skipIf c).pc = (if c then s.pc + 2 else s.pc) := by unfold State.skipIf; split <;> rfl
@[simp] theorem State.skipIf_I (c : Bool) : (s.skipIf c).I = s.I := by unfold State.skipIf; split <;> rfl
@[simp] theorem State.skipIf_stack (c : Bool) : (s.skipIf c).stack = s.stack := by unfold State.skipIf; split <;> rfl
@[simp] theorem State.skipIf_sp (c : Bool) : (s.skipIf c).sp = s.sp := by unfold State.skipIf; split <;> rfl
@[simp] theorem State.skipIf_DT (c : Bool) : (s.skipIf c).DT = s.DT := by unfold State.skipIf; split <;> rfl
@[simp] theorem State.skipIf_ST (c : Bool) : (s.skipIf c).ST = s.ST := by unfold State.skipIf; split <;> rfl
@[simp] theorem State.skipIf_keypad (c : Bool) : (s.skipIf c).keypad = s.keypad := by unfold State.skipIf; split <;> rfl
@[simp] theorem State.skipIf_fb (c : Bool) : (s.skipIf c).fb = s.fb := by unfold State.skipIf; split <;> rfl
@[simp] theorem State.skipIf_ir (c : Bool) : (s.skipIf c).ir = s.ir := by unfold State.skipIf; split <;> rfl
@[simp] theorem State.skipIf_tone (c : Bool) : (s.skipIf c).tone = s.tone := by unfold State.skipIf; split <;> rfl
@[simp] theorem State.skipIf_mem (c : Bool) : (s.skipIf c).mem = s.mem := by unfold State.skipIf; split <;> rfl
@[simp] theorem State.skipIf_callDepth (c : Bool) : (s.skipIf c).callDepth = s.callDepth := by unfold State.skipIf; split <;> rfl
@[simp] theorem State.skipIf_draws (c : Bool) : (s.skipIf c).draws = s.draws := by unfold State.skipIf; split <;> rfl
@[simp] theorem State.skipIf_reg (c : Bool) (y : Nibble) : (s.skipIf c).reg y = s.reg y := by unfold State.skipIf; split <;> rfl
@[simp] theorem State.skipIf_stackSlot (c : Bool) (j : Nibble) : (s.skipIf c).stackSlot j = s.stackSlot j := by unfold State.skipIf; split <;> rfl
@[simp] theorem State.skipIf_keyPressed (c : Bool) (k : Nibble) : (s.skipIf c).keyPressed k = s.keyPressed k := by unfold State.skipIf; split <;> rfl
@[simp] theorem State.skipIf_pixel (c : Bool) (q : Fin 2048) : (s.skipIf c).pixel q = s.pixel q := by unfold State.skipIf; split <;> rfl
@[simp] theorem State.skipIf_readMem (c : Bool) (b : Word) : (s.skipIf c).readMem b = s.readMem b := by unfold State.skipIf; split <;> rfl
@[simp] theorem State.skipIf_drawnByte (c : Bool) : (s.skipIf c).drawnByte = s.drawnByte := by unfold State.skipIf; split <;> rfl

/-! ### tickDelay -/

@[simp] theorem State.tickDelay_cfg : s.tickDelay.cfg = s.cfg := by unfold State.tickDelay; split <;> rfl
@[simp] theorem State.tickDelay_regs : s.tickDelay.regs = s.regs := by unfold State.tickDelay; split <;> rfl
@[simp] theorem State.tickDelay_pc : s.tickDelay.pc = s.pc := by unfold State.tickDelay; split <;> rfl
@[simp] theorem State.tickDelay_I : s.tickDelay.I = s.I := by unfold State.tickDelay; split <;> rfl
@[simp] theorem State.tickDelay_stack : s.tickDelay.stack = s.stack := by unfold State.tickDelay; split <;> rfl
@[simp] theorem State.tickDelay_sp : s.tickDelay.sp = s.sp := by unfold State.tickDelay; split <;> rfl
@[simp] theorem State.tickDelay_DT : s.tickDelay.DT = (if s.DT.toNat > 0 then s.DT - 1 else s.DT) := by unfold State.tickDelay; split <;> rfl
@[simp] theorem State.tickDelay_ST : s.tickDelay.ST = s.ST := by unfold State.tickDelay; split <;> rfl
@[simp] theorem State.tickDelay_keypad : s.tickDelay.keypad = s.keypad := by unfold State.tickDelay; split <;> rfl
@[simp] theorem State.tickDelay_fb : s.tickDelay.fb = s.fb := by unfold State.tickDelay; split <;> rfl
@[simp] theorem State.tickDelay_ir : s.tickDelay.ir = s.ir := by unfold State.tickDelay; split <;> rfl
@[simp] theorem State.tickDelay_tone : s.tickDelay.tone = s.tone := by unfold State.tickDelay; split <;> rfl
@[simp] theorem State.tickDelay_mem : s.tickDelay.mem = s.mem := by unfold State.tickDelay; split <;> rfl
@[simp] theorem State.tickDelay_callDepth : s.tickDelay.callDepth = s.callDepth := by unfold State.tickDelay; split <;> rfl
@[simp] theorem State.tickDelay_draws : s.tickDelay.draws = s.draws := by unfold State.tickDelay; split <;> rfl
@[simp] theorem State.tickDelay_reg (y : Nibble) : s.tickDelay.reg y = s.reg y := by unfold State.tickDelay; split <;> rfl
@[simp] theorem State.tickDelay_stackSlot (j : Nibble) : s.tickDelay.stackSlot j = s.stackSlot j := by unfold State.tickDelay; split <;> rfl
@[simp] theorem State.tickDelay_keyPressed (k : Nibble) : s.tickDelay.keyPressed k = s.keyPressed k := by unfold State.tickDelay; split <;> rfl
@[simp] theorem State.tickDelay_pixel (q : Fin 2048) : s.tickDelay.pixel q = s.pixel q := by unfold State.tickDelay; split <;> rfl
@[simp] theorem State.tickDelay_readMem (b : Word) : s.tickDelay.readMem b = s.readMem b := by unfold State.tickDelay; split <;> rfl
@[simp] theorem State.tickDelay_drawnByte : s.tickDelay.drawnByte = s.drawnByte := by unfold State.tickDelay; split <;> rfl

end Sys2Proof.Machine
end

