-- ==== Sys2Proof/Laws/Ops.lean ====
section
/-! SUPPORT. For each shared operation, what it computes and what it leaves alone: registers, stack, pixels, memory and
its canonical form, the ALU's results, the wait-key scan. -/

namespace Sys2Proof.Machine

/-! ### Registers and stack -/

@[simp] theorem State.reg_setReg (s : State) (x y : Nibble) (v : Byte) :
    (s.setReg x v).reg y = if y = x then v else s.reg y := by
  simp only [State.reg, State.setReg, Vector.getElem_set, BitVec.toNat_eq, eq_comm]

@[simp] theorem State.reg_setFlag (s : State) (f : Bool) (y : Nibble) :
    (s.setFlag f).reg y = if y = flagReg then flagByte f else s.reg y := State.reg_setReg s flagReg y _

@[simp] theorem State.stackSlot_push (s : State) (v : Word) (j : Nibble) :
    (s.push v).stackSlot j = if j = s.sp then v else s.stackSlot j := by
  simp only [State.stackSlot, State.push, Vector.getElem_set, BitVec.toNat_eq, eq_comm]

@[simp] theorem reg_resetWith (c : Config) (x : Nibble) : (State.resetWith c).reg x = 0 := by
  simp [State.reg, State.resetWith]

@[simp] theorem stackSlot_resetWith (c : Config) (j : Nibble) : (State.resetWith c).stackSlot j = 0 := by
  simp [State.stackSlot, State.resetWith]

@[simp] theorem pixel_resetWith (c : Config) (p : Fin 2048) : (State.resetWith c).pixel p = false := by
  simp [State.pixel, State.resetWith]

theorem flagByte_eq_one (b : Bool) : flagByte b = 1 ↔ b = true := by cases b <;> decide

theorem flagByte_cases (b : Bool) : flagByte b = 0 ∨ flagByte b = 1 := by cases b <;> decide

/-! ### Framebuffer -/

theorem State.pixel_togglePixel (s : State) (p q : Fin 2048) :
    (s.togglePixel p).pixel q = if q = p then !s.pixel q else s.pixel q := by
  simp only [State.pixel, State.togglePixel, Vector.getElem_set]
  by_cases hrow : p.val / 64 = q.val / 64
  · have hcol : q.val % 64 < 64 := by omega
    simp only [hrow, if_true, BitVec.getLsbD_xor, BitVec.getLsbD_twoPow]
    by_cases hpq : q = p
    · subst hpq; simp [hcol]
    · have : ¬ p.val % 64 = q.val % 64 := fun h => hpq (Fin.ext (by omega))
      simp [hpq, this]
  · have : q ≠ p := fun h => hrow (by rw [h])
    simp [hrow, this]

@[simp] theorem State.pixel_clearPixels (s : State) (p : Fin 2048) : s.clearPixels.pixel p = false := by
  simp [State.pixel, State.clearPixels]

/-- What one sprite pixel does: it toggles its pixel where the sprite bit is set, and latches the collision flag. -/
theorem State.pixel_drawPixel (s : State) (xs ys row col : Nat) (b : Byte) (q : Fin 2048) :
    (State.drawPixel xs ys row b s col).pixel q =
      (if b.getLsbD (7 - col) = true ∧ q = pixelIndex (xs + col) (ys + row) then !s.pixel q else s.pixel q) := by
  unfold State.drawPixel
  by_cases hb : b.getLsbD (7 - col) = true
  · simp only [hb, if_true, true_and]
    split <;> simp [State.pixel_togglePixel]
  · simp [hb]

theorem State.reg_drawPixel (s : State) (xs ys row col : Nat) (b : Byte) (y : Nibble) :
    (State.drawPixel xs ys row b s col).reg y =
      (if y = flagReg ∧ b.getLsbD (7 - col) = true ∧ s.pixel (pixelIndex (xs + col) (ys + row)) = true
        then 1 else s.reg y) := by
  unfold State.drawPixel
  by_cases hb : b.getLsbD (7 - col) = true
  · by_cases hp : s.pixel (pixelIndex (xs + col) (ys + row)) = true <;> simp [hb, hp, flagByte]
  · simp [hb]

/-- A sprite pixel writes the framebuffer and reg[15] only. -/
theorem State.drawPixel_eq (s : State) (xs ys row col : Nat) (b : Byte) :
    State.drawPixel xs ys row b s col =
      { s with fb := (State.drawPixel xs ys row b s col).fb, regs := (State.drawPixel xs ys row b s col).regs } := by
  unfold State.drawPixel
  split
  · dsimp only
    split <;> rfl
  · rfl

/-! ### Memory -/

theorem Memory.read_filter_self (c : Config) (m : Memory) (a : Nat) :
    Memory.read c (m.filter (fun e => e.1 != a)) a = c.resetByte a := by
  induction m with
  | nil => rfl
  | cons e m ih =>
    by_cases h : e.1 = a
    · simpa [List.filter_cons, h] using ih
    · simpa [List.filter_cons, h, Memory.read] using ih

theorem Memory.read_filter_other (c : Config) (m : Memory) {a b : Nat} (hab : b ≠ a) :
    Memory.read c (m.filter (fun e => e.1 != a)) b = Memory.read c m b := by
  induction m with
  | nil => rfl
  | cons e m ih =>
    by_cases h : e.1 = a
    · have : ¬ a = b := fun hh => hab hh.symm
      simpa [List.filter_cons, h, Memory.read, this] using ih
    · simp [h, Memory.read, ih]

theorem Memory.read_insert (c : Config) (m : Memory) (a b : Nat) (v : Byte) (hm : ∀ e ∈ m, e.1 ≠ a) :
    Memory.read c (Memory.insert a v m) b = if b = a then v else Memory.read c m b := by
  induction m with
  | nil => simp [Memory.insert, Memory.read, eq_comm]
  | cons e m ih =>
    have he : e.1 ≠ a := hm e (by simp)
    have ih' := ih (fun f hf => hm f (by simp [hf]))
    by_cases hlt : a < e.1
    · simp [Memory.insert, hlt, Memory.read, eq_comm]
    · by_cases hb : e.1 = b
      · subst hb
        simp [Memory.insert, hlt, Memory.read, he]
      · simp [Memory.insert, hlt, Memory.read, hb, ih']

/-- Read after write, for every memory: the written address gives the written value, every other one what it gave. -/
theorem Memory.read_write (c : Config) (m : Memory) (a b : Nat) (v : Byte) :
    Memory.read c (Memory.write c m a v) b = if b = a then v else Memory.read c m b := by
  have hm : ∀ e ∈ m.filter (fun e => e.1 != a), e.1 ≠ a := by simp
  unfold Memory.write
  by_cases hv : v = c.resetByte a
  · by_cases hb : b = a
    · subst hb; simp [← hv, Memory.read_filter_self]
    · simp [← hv, hb, Memory.read_filter_other c m hb]
  · simp only [hv, if_false, Memory.read_insert c _ a b v hm]
    by_cases hb : b = a
    · simp [hb]
    · simp [hb, Memory.read_filter_other c m hb]

theorem Memory.mem_insert (a : Nat) (v : Byte) (m : Memory) (e : Host.Cell) :
    e ∈ Memory.insert a v m ↔ e = (a, v) ∨ e ∈ m := by
  induction m with
  | nil => simp [Memory.insert]
  | cons f m ih =>
    by_cases hlt : a < f.1
    · simp [Memory.insert, hlt]
    · simp only [Memory.insert, hlt, if_false, List.mem_cons, ih]
      tauto

theorem Memory.pairwise_insert (a : Nat) (v : Byte) (m : Memory) (hs : m.Pairwise (fun e f => e.1 < f.1))
    (hm : ∀ e ∈ m, e.1 ≠ a) : (Memory.insert a v m).Pairwise (fun e f => e.1 < f.1) := by
  induction m with
  | nil => simp [Memory.insert]
  | cons f m ih =>
    have hf := List.pairwise_cons.mp hs
    have hfa : f.1 ≠ a := hm f (by simp)
    by_cases hlt : a < f.1
    · simp only [Memory.insert, hlt, if_true]
      refine List.pairwise_cons.mpr ⟨fun e he => ?_, hs⟩
      rcases List.mem_cons.mp he with rfl | he
      · exact hlt
      · exact Nat.lt_trans hlt (hf.1 e he)
    · simp only [Memory.insert, hlt, if_false]
      refine List.pairwise_cons.mpr ⟨fun e he => ?_, ih hf.2 (fun e he => hm e (by simp [he]))⟩
      rcases (Memory.mem_insert a v m e).mp he with rfl | he
      · show f.1 < a
        omega
      · exact hf.1 e he

/-- A write at an address of the space keeps the canonical form. -/
theorem Memory.wf_write (c : Config) (m : Memory) (a : Nat) (v : Byte) (ha : a < 4096) (hm : Memory.wf c m) :
    Memory.wf c (Memory.write c m a v) := by
  have hs := hm.1.filter (fun e => e.1 != a)
  have hall : ∀ e ∈ m.filter (fun e => e.1 != a), e.1 < 4096 ∧ e.2 ≠ c.resetByte e.1 := fun e he =>
    hm.2 e (List.mem_of_mem_filter he)
  unfold Memory.write
  by_cases hv : v = c.resetByte a
  · simp only [← hv, if_true]
    exact ⟨hs, hall⟩
  · simp only [hv, if_false]
    refine ⟨Memory.pairwise_insert a v _ hs (by simp), fun e he => ?_⟩
    rcases (Memory.mem_insert a v _ e).mp he with rfl | he
    · exact ⟨ha, hv⟩
    · exact hall e he

theorem memAddr_lt (a : Word) : memAddr a < 4096 := Nat.mod_lt _ (by decide)

@[simp] theorem State.readMem_writeMem (s : State) (a b : Word) (v : Byte) :
    (s.writeMem a v).readMem b = if memAddr b = memAddr a then v else s.readMem b :=
  Memory.read_write s.cfg s.mem _ _ v

theorem State.wf_writeMem (s : State) (a : Word) (v : Byte) (h : Memory.wf s.cfg s.mem) :
    Memory.wf (s.writeMem a v).cfg (s.writeMem a v).mem := Memory.wf_write s.cfg s.mem _ v (memAddr_lt a) h

theorem Memory.wf_nil (c : Config) : Memory.wf c [] := by simp [Memory.wf]

/-- Two addresses that the decoder cannot tell apart are one byte (20_memory.md R61). -/
theorem memAddr_eq_iff (a b : Word) : memAddr a = memAddr b ↔ a.setWidth 12 = b.setWidth 12 := by
  simp [memAddr, BitVec.toNat_eq, BitVec.toNat_setWidth]

@[simp] theorem memAddr_setWidth (a : Addr) : memAddr (a.setWidth 16) = a.toNat := by
  have := a.isLt
  simp only [memAddr, BitVec.toNat_setWidth]
  omega

theorem memAddr_indexed (i : Word) (k : Nat) : memAddr (indexed i k) = (i.toNat + k) % 4096 := by
  simp only [memAddr, indexed, BitVec.toNat_add, BitVec.toNat_ofNat]
  omega

/-- The font zone holds FONT_DATA at Initialize (20_memory.md R64). -/
theorem resetByte_font (c : Config) (k : Fin 80) : c.resetByte (fontBase + k) = c.fontData[k] := by
  have := k.isLt
  simp [Config.resetByte, this]

/-- Every other byte is 0x00 at Initialize (20_memory.md R65). -/
theorem resetByte_other (c : Config) (a : Nat) (h : a < 0x050 ∨ 0x09F < a) : c.resetByte a = 0 := by
  have : ¬(fontBase ≤ a ∧ a < fontBase + 80) := by
    have : fontBase = 0x050 := rfl
    omega
  exact dif_neg this

/-! ### ALU -/

theorem aluAdd_eq (a b : Byte) : aluAdd a b = a + b := by
  apply BitVec.eq_of_toNat_eq; simp [aluAdd]

theorem aluSub_eq (a b : Byte) : aluSub a b = a - b := by
  apply BitVec.eq_of_toNat_eq
  simp only [aluSub, BitVec.toNat_ofInt, BitVec.toNat_sub]
  omega

theorem aluShr_eq (a : Byte) : aluShr a = a >>> 1 := by
  apply BitVec.eq_of_toNat_eq
  have := a.isLt
  simp only [aluShr, BitVec.toNat_ofNat, BitVec.toNat_ushiftRight, Nat.shiftRight_eq_div_pow]
  omega

theorem aluShl_eq (a : Byte) : aluShl a = a <<< 1 := by
  apply BitVec.eq_of_toNat_eq
  simp only [aluShl, BitVec.toNat_ofNat, BitVec.toNat_shiftLeft, Nat.shiftLeft_eq]
  omega

/-! ### Scans and lists -/

/-- The scan finds the lowest pressed key. -/
theorem lowestKey_eq_some {keys : BitVec 16} {k : Nat} (h : lowestKey keys = some k) :
    k < 16 ∧ keys.getLsbD k = true ∧ ∀ j < k, keys.getLsbD j = false := by
  obtain ⟨hk, hmem, hlow⟩ := List.find?_range_eq_some.mp h
  exact ⟨by simpa using hmem, hk, fun j hj => by simpa using hlow j hj⟩

/-- The scan finds nothing exactly when no key is pressed. -/
theorem lowestKey_eq_none {keys : BitVec 16} : lowestKey keys = none ↔ keys = 0 := by
  constructor
  · intro h
    apply BitVec.eq_of_getLsbD_eq
    intro k hk
    have := (List.find?_eq_none.mp h) k (by simpa using hk)
    simpa using this
  · rintro rfl
    decide

theorem mem_regsUpTo (x r : Nibble) : r ∈ regsUpTo x ↔ r.toNat ≤ x.toNat := by
  simp only [regsUpTo, List.mem_map, List.mem_range]
  constructor
  · rintro ⟨k, hk, rfl⟩
    simp only [BitVec.toNat_ofNat]
    have := x.isLt
    have := Nat.mod_le k (2 ^ 4)
    omega
  · intro h
    exact ⟨r.toNat, by omega, by simp⟩

/-! ### The timer phase -/

theorem State.tickTimers_eq (s : State) :
    s.tickTimers = { s with
      DT := if s.DT.toNat > 0 then s.DT - 1 else s.DT
      tone := decide (s.ST = 1)
      ST := if s.ST.toNat > 0 then s.ST - 1 else s.ST } := by
  unfold State.tickTimers State.tickDelay
  split <;> rfl

end Sys2Proof.Machine
end

