-- ==== Sys2Proof/Laws/Frame.lean ====
section
/-! SUPPORT. Frames: what each shared operation changes, in the terms of `OnlyChanges`, and how frames combine. -/

namespace Sys2Proof.Machine

theorem Part.same_trans {q : Part} {s t u : State} (h : q.same s t) (h' : q.same t u) : q.same s u := by
  cases q <;> simp_all [Part.same]

theorem OnlyChanges.refl (c : Part → Prop) (s : State) : OnlyChanges c s s := by
  intro q _; cases q <;> simp [Part.same]

theorem OnlyChanges.mono {c d : Part → Prop} {s t : State} (h : OnlyChanges c s t) (hcd : ∀ q, c q → d q) :
    OnlyChanges d s t := fun q hq => h q (fun hc => hq (hcd q hc))

theorem OnlyChanges.trans {c : Part → Prop} {s t u : State} (h : OnlyChanges c s t) (h' : OnlyChanges c t u) :
    OnlyChanges c s u := fun q hq => Part.same_trans (h q hq) (h' q hq)

/-- A loop changes what its steps change. -/
theorem OnlyChanges.foldl {α : Type} {c : Part → Prop} (f : State → α → State) :
    ∀ (l : List α) (s : State), (∀ t, ∀ a ∈ l, OnlyChanges c t (f t a)) → OnlyChanges c s (l.foldl f s)
  | [], s, _ => OnlyChanges.refl c s
  | a :: l, s, h =>
    (h s a (by simp)).trans (OnlyChanges.foldl f l (f s a) (fun t b hb => h t b (by simp [hb])))

theorem State.setReg_frame (s : State) (x : Nibble) (v : Byte) : OnlyChanges (fun q => q = .reg x) s (s.setReg x v) := by
  intro q hq; cases q <;> simp_all [Part.same]

theorem State.setFlag_frame (s : State) (f : Bool) : OnlyChanges (fun q => q = .reg 15) s (s.setFlag f) :=
  s.setReg_frame flagReg _

theorem State.setPc_frame (s : State) (v : Word) : OnlyChanges (fun q => q = .pc) s (s.setPc v) := by
  intro q hq; cases q <;> simp_all [Part.same]

theorem State.skipIf_frame (s : State) (c : Bool) : OnlyChanges (fun q => q = .pc) s (s.skipIf c) := by
  intro q hq; cases q <;> simp_all [Part.same]

theorem State.setI_frame (s : State) (v : Word) : OnlyChanges (fun q => q = .I) s (s.setI v) := by
  intro q hq; cases q <;> simp_all [Part.same]

theorem State.push_frame (s : State) (v : Word) :
    OnlyChanges (fun q => q = .stackSlot s.sp ∨ q = .sp ∨ q = .callDepth) s (s.push v) := by
  intro q hq; cases q <;> simp_all [Part.same]

theorem State.pop_frame (s : State) : OnlyChanges (fun q => q = .sp ∨ q = .callDepth) s s.pop := by
  intro q hq; cases q <;> simp_all [Part.same]

theorem State.setDT_frame (s : State) (v : Byte) : OnlyChanges (fun q => q = .DT) s (s.setDT v) := by
  intro q hq; cases q <;> simp_all [Part.same]

theorem State.setST_frame (s : State) (v : Byte) : OnlyChanges (fun q => q = .ST) s (s.setST v) := by
  intro q hq; cases q <;> simp_all [Part.same]

theorem State.togglePixel_frame (s : State) (p : Fin 2048) :
    OnlyChanges (fun q => q = .pixel p) s (s.togglePixel p) := by
  intro q hq; cases q <;> simp_all [Part.same, State.pixel_togglePixel]

theorem State.clearPixels_frame (s : State) : OnlyChanges (fun q => ∃ p, q = .pixel p) s s.clearPixels := by
  intro q hq; cases q <;> simp_all [Part.same]

theorem State.writeMem_frame (s : State) (a : Word) (v : Byte) :
    OnlyChanges (fun q => q = .memByte (a.setWidth 12)) s (s.writeMem a v) := by
  intro q hq
  cases q with
  | memByte b =>
    have : ¬ memAddr (b.setWidth 16) = memAddr a := by
      rw [memAddr_eq_iff]
      intro h
      exact hq (congrArg Part.memByte (by rw [← h]; simp))
    simp only [Part.same, State.readMem_writeMem, this, if_false]
  | _ => simp_all [Part.same]

theorem State.countDraw_frame (s : State) : OnlyChanges (fun q => q = .draws) s s.countDraw := by
  intro q hq; cases q <;> simp_all [Part.same]

theorem State.fetch_frame (s : State) : OnlyChanges (fun q => q = .ir) s s.fetch := by
  intro q hq; cases q <;> simp_all [Part.same]

theorem State.advance_frame (s : State) : OnlyChanges (fun q => q = .pc) s s.advance := by
  intro q hq; cases q <;> simp_all [Part.same]

theorem State.tickDelay_frame (s : State) : OnlyChanges (fun q => q = .DT) s s.tickDelay := by
  intro q hq; cases q <;> simp_all [Part.same]

theorem State.tickSound_frame (s : State) : OnlyChanges (fun q => q = .ST ∨ q = .tone) s s.tickSound := by
  intro q hq; cases q <;> simp_all [Part.same]

theorem State.drawPixel_frame (s : State) (xs ys row col : Nat) (b : Byte) :
    OnlyChanges (fun q => q = .reg 15 ∨ ∃ p, q = .pixel p) s (State.drawPixel xs ys row b s col) := by
  unfold State.drawPixel
  split
  · refine OnlyChanges.trans ?_ ((State.togglePixel_frame _ _).mono (fun q h => .inr ⟨_, h⟩))
    split
    · exact (s.setFlag_frame true).mono (fun q h => .inl h)
    · exact OnlyChanges.refl _ s
  · exact OnlyChanges.refl _ s

theorem State.drawRow_frame (s : State) (xs ys row : Nat) :
    OnlyChanges (fun q => q = .reg 15 ∨ ∃ p, q = .pixel p) s (State.drawRow xs ys s row) :=
  OnlyChanges.foldl _ _ s (fun t col _ => t.drawPixel_frame xs ys row col _)

end Sys2Proof.Machine
end

