-- ==== Sys2Proof/Laws/Sprite.lean ====
section
/-! SUPPORT. What one row of draw-sprite does (spec/43_families9toD.md R184): within a draw no pixel is met twice, so each
pixel ends toggled exactly where a set sprite bit falls on it. -/

namespace Sys2Proof.Machine

/-- Within one draw the pixels of different rows or columns differ (R184). -/
theorem pixelIndex_injective {x y c c' r r' : Nat} (hc : c < 8) (hc' : c' < 8) (hr : r < 16) (hr' : r' < 16)
    (h : pixelIndex (x + c) (y + r) = pixelIndex (x + c') (y + r')) : c = c' ∧ r = r' := by
  have := congrArg Fin.val h
  simp only [pixelIndex] at this
  omega

/-- The columns `0 .. m - 1` of one row. -/
theorem drawPixels_spec (s : State) (xs ys row : Nat) (b : Byte) (hrow : row < 16) :
    ∀ m ≤ 8, (∀ q : Fin 2048, ((List.range m).foldl (State.drawPixel xs ys row b) s).pixel q ≠ s.pixel q ↔
        ∃ col < m, b.getLsbD (7 - col) = true ∧ q = pixelIndex (xs + col) (ys + row)) ∧
      ((∃ col < m, b.getLsbD (7 - col) = true ∧ s.pixel (pixelIndex (xs + col) (ys + row)) = true) →
        ((List.range m).foldl (State.drawPixel xs ys row b) s).reg 15 = 1) ∧
      ((¬∃ col < m, b.getLsbD (7 - col) = true ∧ s.pixel (pixelIndex (xs + col) (ys + row)) = true) →
        ((List.range m).foldl (State.drawPixel xs ys row b) s).reg 15 = s.reg 15) := by
  intro m
  induction m with
  | zero => intro _; simp
  | succ m ih =>
    intro hm
    obtain ⟨hpix, hone, hsame⟩ := ih (by omega)
    rw [List.range_succ, List.foldl_append]
    generalize (List.range m).foldl (State.drawPixel xs ys row b) s = t at *
    simp only [List.foldl_cons, List.foldl_nil, State.pixel_drawPixel, State.reg_drawPixel]
    -- the pixel of column m is met for the first time
    have hfresh : t.pixel (pixelIndex (xs + m) (ys + row)) = s.pixel (pixelIndex (xs + m) (ys + row)) := by
      by_contra hne
      obtain ⟨col, hcol, -, heq⟩ := (hpix _).mp hne
      have := (pixelIndex_injective (by omega) (by omega) hrow hrow heq).1
      omega
    refine ⟨fun q => ?_, ?_, ?_⟩
    · by_cases hbit : b.getLsbD (7 - m) = true ∧ q = pixelIndex (xs + m) (ys + row)
      · rw [if_pos hbit, hbit.2, hfresh]
        simp only [ne_eq, Bool.not_eq_eq_eq_not]
        exact ⟨fun _ => ⟨m, by omega, hbit.1, rfl⟩, fun _ => by cases s.pixel (pixelIndex (xs + m) (ys + row)) <;> simp⟩
      · rw [if_neg hbit, hpix q]
        constructor
        · rintro ⟨col, hcol, h⟩; exact ⟨col, by omega, h⟩
        · rintro ⟨col, hcol, h⟩
          rcases Nat.lt_succ_iff_lt_or_eq.mp hcol with h' | rfl
          · exact ⟨col, h', h⟩
          · exact absurd h hbit
    · rintro ⟨col, hcol, hb, hp⟩
      by_cases hm' : b.getLsbD (7 - m) = true ∧ t.pixel (pixelIndex (xs + m) (ys + row)) = true
      · simp [hm']
      · rw [if_neg (by rintro ⟨-, h⟩; exact hm' h)]
        refine hone ⟨col, ?_, hb, hp⟩
        rcases Nat.lt_succ_iff_lt_or_eq.mp hcol with h' | rfl
        · exact h'
        · exact absurd ⟨hb, hfresh.trans hp⟩ hm'
    · intro hnone
      rw [if_neg, hsame]
      · rintro ⟨col, hcol, h⟩; exact hnone ⟨col, by omega, h⟩
      · rintro ⟨-, hb, hp⟩; exact hnone ⟨m, by omega, hb, hfresh.symm.trans hp⟩

/-- One row of a sprite, with the byte it reads. -/
theorem State.drawRow_spec (s : State) (xs ys row : Nat) (hrow : row < 16) :
    (∀ q : Fin 2048, (State.drawRow xs ys s row).pixel q ≠ s.pixel q ↔
        ∃ col < 8, (s.readMem (indexed s.I row)).getLsbD (7 - col) = true ∧ q = pixelIndex (xs + col) (ys + row)) ∧
      ((∃ col < 8, (s.readMem (indexed s.I row)).getLsbD (7 - col) = true ∧
          s.pixel (pixelIndex (xs + col) (ys + row)) = true) → (State.drawRow xs ys s row).reg 15 = 1) ∧
      ((¬∃ col < 8, (s.readMem (indexed s.I row)).getLsbD (7 - col) = true ∧
          s.pixel (pixelIndex (xs + col) (ys + row)) = true) → (State.drawRow xs ys s row).reg 15 = s.reg 15) :=
  drawPixels_spec s xs ys row _ hrow 8 (by decide)

/-- A row reads memory and the index register, and writes neither. -/
theorem State.drawRow_readMem (s : State) (xs ys row : Nat) (a : Word) :
    (State.drawRow xs ys s row).readMem a = s.readMem a ∧ (State.drawRow xs ys s row).I = s.I := by
  have key : ∀ (l : List Nat) (t : State) (b : Byte), (l.foldl (State.drawPixel xs ys row b) t).readMem a = t.readMem a ∧
      (l.foldl (State.drawPixel xs ys row b) t).I = t.I := by
    intro l
    induction l with
    | nil => intro t b; exact ⟨rfl, rfl⟩
    | cons c l ih =>
      intro t b
      have h := ih (State.drawPixel xs ys row b t c) b
      rw [State.drawPixel_eq t xs ys row c b] at h
      rw [List.foldl_cons, State.drawPixel_eq t xs ys row c b]
      exact ⟨h.1.trans rfl, h.2.trans rfl⟩
  exact key _ _ _

end Sys2Proof.Machine
end

