-- ==== Sys2Proof/Laws/Loops.lean ====
section
/-! SUPPORT. The loops of draw-sprite, store-registers and load-registers as record updates: which fields a whole loop
writes, so that every other field is unchanged by `rfl`. -/

namespace Sys2Proof.Machine

/-- A reflexive and transitive relation that every step of a loop meets holds of the whole loop. -/
theorem foldl_relates {α : Type} {R : State → State → Prop} (f : State → α → State) (hrefl : ∀ s, R s s)
    (htrans : ∀ s t u, R s t → R t u → R s u) (hstep : ∀ s a, R s (f s a)) : ∀ (l : List α) (s : State), R s (l.foldl f s)
  | [], s => hrefl s
  | a :: l, s => htrans _ _ _ (hstep s a) (foldl_relates f hrefl htrans hstep l (f s a))

/-- `t` is `s` but for the framebuffer and the registers. -/
abbrev DrawnFrom (s t : State) : Prop := t = { s with fb := t.fb, regs := t.regs }

theorem DrawnFrom.trans (s t u : State) (h : DrawnFrom s t) (h' : DrawnFrom t u) : DrawnFrom s u := by
  unfold DrawnFrom at *
  rw [h', h]

theorem State.drawRow_drawnFrom (s : State) (xs ys row : Nat) : DrawnFrom s (State.drawRow xs ys s row) :=
  foldl_relates (R := DrawnFrom) _ (fun _ => rfl) DrawnFrom.trans (fun t col => State.drawPixel_eq t xs ys row col _) _ _

/-- A whole sprite writes the framebuffer and the registers only. -/
theorem drawRows_drawnFrom (s : State) (xs ys : Nat) (rows : List Nat) :
    DrawnFrom s (rows.foldl (State.drawRow xs ys) s) :=
  foldl_relates (R := DrawnFrom) _ (fun _ => rfl) DrawnFrom.trans (fun t row => t.drawRow_drawnFrom xs ys row) _ _

/-- store-registers' loop writes memory only. -/
theorem storeRegs_eq (s : State) (l : List Nibble) :
    l.foldl State.storeReg s = { s with mem := (l.foldl State.storeReg s).mem } :=
  foldl_relates (R := fun s t => t = { s with mem := t.mem }) _ (fun _ => rfl)
    (fun s t u h h' => by rw [h', h]) (fun _ _ => rfl) _ _

/-- load-registers' loop writes the registers only. -/
theorem loadRegs_eq (s : State) (l : List Nibble) :
    l.foldl State.loadReg s = { s with regs := (l.foldl State.loadReg s).regs } :=
  foldl_relates (R := fun s t => t = { s with regs := t.regs }) _ (fun _ => rfl)
    (fun s t u h h' => by rw [h', h]) (fun _ _ => rfl) _ _

/-- store-registers' loop keeps the canonical form of memory. -/
theorem storeRegs_wf (s : State) (l : List Nibble) (h : Memory.wf s.cfg s.mem) :
    Memory.wf (l.foldl State.storeReg s).cfg (l.foldl State.storeReg s).mem := by
  induction l generalizing s with
  | nil => exact h
  | cons i l ih => exact ih _ (s.wf_writeMem _ _ h)

/-- load-registers' loop: each listed register takes its byte, every other register stays. -/
theorem reg_loadRegs (l : List Nibble) (s : State) (r : Nibble) :
    (l.foldl State.loadReg s).reg r = if r ∈ l then s.readMem (indexed s.I r.toNat) else s.reg r := by
  induction l generalizing s with
  | nil => simp
  | cons i l ih =>
    have hread : (s.loadReg i).readMem (indexed (s.loadReg i).I r.toNat) = s.readMem (indexed s.I r.toNat) := rfl
    have hreg : (s.loadReg i).reg r = if r = i then s.readMem (indexed s.I i.toNat) else s.reg r :=
      State.reg_setReg s i r _
    rw [List.foldl_cons, ih, hread, hreg]
    by_cases hl : r ∈ l
    · simp [hl]
    · by_cases hi : r = i
      · subst hi; simp
      · simp [hl, hi]

/-- store-registers' loop: the byte at `I + r` is reg[r] for each listed register. -/
theorem readMem_storeRegs_mem (l : List Nibble) (s : State) (r : Nibble) (hr : r ∈ l) :
    (l.foldl State.storeReg s).readMem (indexed s.I r.toNat) = s.reg r := by
  have key : ∀ (l : List Nibble) (t : State), t.regs = s.regs → t.I = s.I →
      (r ∈ l ∨ t.readMem (indexed s.I r.toNat) = s.reg r) →
      (l.foldl State.storeReg t).readMem (indexed s.I r.toNat) = s.reg r := by
    intro l
    induction l with
    | nil => intro t _ _ h; simpa using h
    | cons i l ih =>
      intro t hregs hI h
      refine ih _ hregs hI ?_
      by_cases hl : r ∈ l
      · exact .inl hl
      · right
        have hreg : t.reg i = s.reg i := by simp [State.reg, hregs]
        simp only [State.storeReg, State.readMem_writeMem, hI, hreg]
        by_cases hri : r = i
        · subst hri; simp
        · have hne : ¬ memAddr (indexed s.I r.toNat) = memAddr (indexed s.I i.toNat) := by
            rw [memAddr_indexed, memAddr_indexed]
            have := r.isLt
            have := i.isLt
            have : r.toNat ≠ i.toNat := fun hh => hri (BitVec.eq_of_toNat_eq hh)
            omega
          simp only [hne, if_false]
          rcases h with h | h
          · simp [hri, hl] at h
          · exact h
  exact key l s rfl rfl (.inl hr)

/-- store-registers' loop changes the bytes at `I + i` of the listed registers only. -/
theorem storeRegs_frame (l : List Nibble) (s : State) :
    OnlyChanges (fun q => ∃ i ∈ l, q = indexedByte s i.toNat) s (l.foldl State.storeReg s) := by
  have key : ∀ (l' : List Nibble), (∀ i ∈ l', i ∈ l) → ∀ t : State, t.I = s.I →
      OnlyChanges (fun q => ∃ i ∈ l, q = indexedByte s i.toNat) t (l'.foldl State.storeReg t) := by
    intro l'
    induction l' with
    | nil => intro _ t _; exact OnlyChanges.refl _ t
    | cons i l' ih =>
      intro hsub t hI
      refine OnlyChanges.trans ((t.writeMem_frame _ _).mono ?_) (ih (fun j hj => hsub j (by simp [hj])) _ hI)
      rintro q rfl
      exact ⟨i, hsub i (by simp), by rw [indexedByte, hI]⟩
  exact key l (fun _ h => h) s rfl

end Sys2Proof.Machine
end

