-- ==== Sys2Proof/Laws/PerInstr.lean ====
section
/-! SUPPORT. A fact of every instruction as syntax, one lemma per constructor: the encoder writes 0 in every bit that
decode ignores (spec/30_encoding.md, the opcode map: `match` is the pattern with `?` set to 0). -/

namespace Sys2Proof.Laws.IgnoredBits

/-- The word of `i` has no ignored bit set. -/
def Statement (i : Instr) : Prop := encode i &&& ignoredBits i = 0

theorem clearScreen : Statement .clearScreen := by unfold Statement; decide
theorem ret : Statement .ret := by unfold Statement; decide
theorem jump (nnn : Addr) : Statement (.jump nnn) := by simp [Statement, ignoredBits]
theorem call (nnn : Addr) : Statement (.call nnn) := by simp [Statement, ignoredBits]
theorem skipEqImm (x : Nibble) (kk : Byte) : Statement (.skipEqImm x kk) := by simp [Statement, ignoredBits]
theorem skipNeImm (x : Nibble) (kk : Byte) : Statement (.skipNeImm x kk) := by simp [Statement, ignoredBits]
theorem skipEqReg (x y : Nibble) : Statement (.skipEqReg x y) := by
  unfold Statement; revert x y; decide +kernel
theorem loadImm (x : Nibble) (kk : Byte) : Statement (.loadImm x kk) := by simp [Statement, ignoredBits]
theorem addImm (x : Nibble) (kk : Byte) : Statement (.addImm x kk) := by simp [Statement, ignoredBits]
theorem loadReg (x y : Nibble) : Statement (.loadReg x y) := by simp [Statement, ignoredBits]
theorem orReg (x y : Nibble) : Statement (.orReg x y) := by simp [Statement, ignoredBits]
theorem andReg (x y : Nibble) : Statement (.andReg x y) := by simp [Statement, ignoredBits]
theorem xorReg (x y : Nibble) : Statement (.xorReg x y) := by simp [Statement, ignoredBits]
theorem addReg (x y : Nibble) : Statement (.addReg x y) := by simp [Statement, ignoredBits]
theorem subReg (x y : Nibble) : Statement (.subReg x y) := by simp [Statement, ignoredBits]
theorem shiftRight (x y : Nibble) : Statement (.shiftRight x y) := by simp [Statement, ignoredBits]
theorem subnReg (x y : Nibble) : Statement (.subnReg x y) := by simp [Statement, ignoredBits]
theorem shiftLeft (x y : Nibble) : Statement (.shiftLeft x y) := by simp [Statement, ignoredBits]
theorem skipNeReg (x y : Nibble) : Statement (.skipNeReg x y) := by
  unfold Statement; revert x y; decide +kernel
theorem loadIndex (nnn : Addr) : Statement (.loadIndex nnn) := by simp [Statement, ignoredBits]
theorem jumpOffset (nnn : Addr) : Statement (.jumpOffset nnn) := by simp [Statement, ignoredBits]
theorem randAnd (x : Nibble) (kk : Byte) : Statement (.randAnd x kk) := by simp [Statement, ignoredBits]
theorem drawSprite (x y n : Nibble) : Statement (.drawSprite x y n) := by simp [Statement, ignoredBits]
theorem skipKeyPressed (x : Nibble) : Statement (.skipKeyPressed x) := by
  unfold Statement; revert x; decide
theorem skipKeyNotPressed (x : Nibble) : Statement (.skipKeyNotPressed x) := by
  unfold Statement; revert x; decide
theorem getDelayTimer (x : Nibble) : Statement (.getDelayTimer x) := by simp [Statement, ignoredBits]
theorem waitKey (x : Nibble) : Statement (.waitKey x) := by simp [Statement, ignoredBits]
theorem setDelayTimer (x : Nibble) : Statement (.setDelayTimer x) := by simp [Statement, ignoredBits]
theorem setSoundTimer (x : Nibble) : Statement (.setSoundTimer x) := by simp [Statement, ignoredBits]
theorem addToIndex (x : Nibble) : Statement (.addToIndex x) := by simp [Statement, ignoredBits]
theorem fontCharAddress (x : Nibble) : Statement (.fontCharAddress x) := by simp [Statement, ignoredBits]
theorem storeBcd (x : Nibble) : Statement (.storeBcd x) := by simp [Statement, ignoredBits]
theorem storeRegisters (x : Nibble) : Statement (.storeRegisters x) := by simp [Statement, ignoredBits]
theorem loadRegisters (x : Nibble) : Statement (.loadRegisters x) := by simp [Statement, ignoredBits]

end Sys2Proof.Laws.IgnoredBits
end

