-- ==== Sys2Proof/Laws/Step.lean ====
section
/-! SUPPORT. What a Step can do, said once: it ends in a next state exactly where the execute phase does, and then the
timer phase has followed; what the execute phase is, by the decoded word. -/

namespace Sys2Proof.Machine

theorem step_eq_next_iff (s t : State) :
    step s = .next t ↔ ∃ u, execute s.fetch.ir s.fetch.advance = .next u ∧ t = u.tickTimers := by
  unfold step
  cases execute s.fetch.ir s.fetch.advance with
  | next u => simp [eq_comm]
  | fault f => simp
  | refused r => simp

theorem step_eq_fault_iff (s : State) (f : Fault) :
    step s = .fault f ↔ execute s.fetch.ir s.fetch.advance = .fault f := by
  unfold step
  cases execute s.fetch.ir s.fetch.advance <;> simp

theorem step_eq_refused_iff (s : State) (r : Refusal) :
    step s = .refused r ↔ execute s.fetch.ir s.fetch.advance = .refused r := by
  unfold step
  cases execute s.fetch.ir s.fetch.advance <;> simp

theorem execute_of_decode {w : Word} {i : Instr} (s : State) (h : decode w = .ok i) : execute w s = exec i s := by
  simp [execute, h]

theorem execute_of_undefined {w : Word} {e : Undefined} (s : State) (h : decode w = .error e) :
    execute w s = .next s := by
  simp [execute, h, execUndefined]

/-- The execute phase's next state comes from the decoded instruction, or is the state itself where there is none. -/
theorem execute_eq_next {w : Word} {s t : State} (h : execute w s = .next t) :
    (∃ i, decode w = .ok i ∧ exec i s = .next t) ∨ ((∃ e, decode w = .error e) ∧ t = s) := by
  unfold execute at h
  split at h
  · exact .inl ⟨_, by assumption, h⟩
  · exact .inr ⟨⟨_, by assumption⟩, by simpa [execUndefined, eq_comm] using h⟩

theorem State.tickTimers_frame (s : State) : OnlyChanges (fun q => q = .DT ∨ q = .ST ∨ q = .tone) s s.tickTimers :=
  (s.tickDelay_frame.mono (fun _ h => .inl h)).trans (s.tickDelay.tickSound_frame.mono (fun _ h => .inr h))

end Sys2Proof.Machine
end

