-- ==== Sys2Proof/Tests/Slice0.lean ====
section
/-! SUPPORT. The model's own tests. The expected values are the spec's: spec/95_test_vectors.md (the vector's name stands
beside a test) or the example of the rule named. Then a witness for every obligation that has hypotheses. -/

namespace Sys2Proof.Tests

open Sys2Proof Sys2Proof.Machine

/-! ### Helpers -/

/-- A view of the next state, if there is one. -/
def view {α : Type} (o : Host.Outcome State Fault Refusal) (f : State → α) : Option α :=
  match o with
  | .next t => some (f t)
  | .fault _ => none
  | .refused _ => none

/-- The fault, if there is one. -/
def faultOf (o : Host.Outcome State Fault Refusal) : Option Fault :=
  match o with
  | .fault f => some f
  | .next _ => none
  | .refused _ => none

/-- One Step of `w` placed at pc. -/
def run (s : State) (w : Nat) : Host.Outcome State Fault Refusal := step (s.withFetchWord 16 w)

/-- Registers written one after another, from reset. -/
def withRegs (l : List (Nibble × Byte)) : State := l.foldl (fun s e => s.setReg e.1 e.2) State.reset

/-- reg[1] = a, reg[2] = b, reg[15] = 0x55: the start of the vectors of section 2.4. -/
def ab (a b : Byte) : State := withRegs [(1, a), (2, b), (15, 0x55)]

/-- The state after 16 nested calls: ghost depth 16, sp = 0 (CL3). -/
def fullStack : State := (List.replicate 16 0x0202#16).foldl State.push State.reset

/-! ### WellFormed: a term each check refuses -/

theorem test_image_of_3584_bytes_accepted : imageWf (List.replicate 3584 0) = true := by decide +kernel
theorem test_image_of_3585_bytes_refused : imageWf (List.replicate 3585 0) = false := by decide +kernel
theorem test_shift_with_y_is_no_assembler_form :
    (Instr.shiftRight 1 2).assemblerForm = false ∧ (Instr.shiftLeft 1 2).assemblerForm = false ∧
      (Instr.shiftRight 1 0).assemblerForm = true := by decide
theorem test_program_too_long_or_not_in_form_refused :
    programWf (List.replicate 1793 .clearScreen) = false ∧ programWf [.shiftLeft 1 2] = false ∧
      programWf [.loadImm 0 5, .ret] = true := by decide +kernel
theorem test_memory_not_rising_refused : ¬ Memory.wf Config.default [(2, 1), (1, 1)] := by decide
theorem test_memory_outside_refused : ¬ Memory.wf Config.default [(4096, 1)] := by decide
theorem test_memory_with_unlisted_value_refused : ¬ Memory.wf Config.default [(0x50, 0xF0)] := by decide

/-! ### Decode: words written out from the encodings (section 2.1; the opcode map) -/

theorem test_decode_family0 : decode 0x00E0 = .ok .clearScreen ∧ decode 0x000E = .ok .ret ∧
    decode 0x00E1 = .error (.family0 1) := by decide
theorem test_decode_families1to4 : decode 0x1ABC = .ok (.jump 0xABC) ∧ decode 0x2300 = .ok (.call 0x300) ∧
    decode 0x3A10 = .ok (.skipEqImm 0xA 0x10) ∧ decode 0x4B11 = .ok (.skipNeImm 0xB 0x11) := by decide
theorem test_decode_families5to7 : decode 0x5127 = .ok (.skipEqReg 1 2) ∧ decode 0x6AFF = .ok (.loadImm 10 0xFF) ∧
    decode 0x7305 = .ok (.addImm 3 0x05) := by decide
theorem test_decode_family8_low : decode 0x8120 = .ok (.loadReg 1 2) ∧ decode 0x8121 = .ok (.orReg 1 2) ∧
    decode 0x8122 = .ok (.andReg 1 2) ∧ decode 0x8123 = .ok (.xorReg 1 2) ∧ decode 0x8124 = .ok (.addReg 1 2) := by decide
theorem test_decode_family8_high : decode 0x8125 = .ok (.subReg 1 2) ∧ decode 0x8126 = .ok (.shiftRight 1 2) ∧
    decode 0x8127 = .ok (.subnReg 1 2) ∧ decode 0x812E = .ok (.shiftLeft 1 2) ∧ decode 0x812F = .error (.family8 0xF) := by
  decide
theorem test_decode_families9toD : decode 0x9340 = .ok (.skipNeReg 3 4) ∧ decode 0xA123 = .ok (.loadIndex 0x123) ∧
    decode 0xB500 = .ok (.jumpOffset 0x500) ∧ decode 0xC10F = .ok (.randAnd 1 0x0F) ∧
    decode 0xD125 = .ok (.drawSprite 1 2 5) := by decide
theorem test_decode_familyE : decode 0xE19E = .ok (.skipKeyPressed 1) ∧ decode 0xE1A1 = .ok (.skipKeyNotPressed 1) ∧
    decode 0xE19F = .error (.familyE 0xF) := by decide
theorem test_decode_familyF_timers : decode 0xF107 = .ok (.getDelayTimer 1) ∧ decode 0xF30A = .ok (.waitKey 3) ∧
    decode 0xF015 = .ok (.setDelayTimer 0) ∧ decode 0xF018 = .ok (.setSoundTimer 0) := by decide
theorem test_decode_familyF_memory : decode 0xF11E = .ok (.addToIndex 1) ∧ decode 0xF029 = .ok (.fontCharAddress 0) ∧
    decode 0xF033 = .ok (.storeBcd 0) ∧ decode 0xFF55 = .ok (.storeRegisters 15) ∧
    decode 0xF265 = .ok (.loadRegisters 2) ∧ decode 0xF1FF = .error (.familyF 0xFF) := by decide
theorem test_decode_bytes : decodeBytes [0x60, 0x05, 0x61] = .ok (.loadImm 0 5, [0x61]) ∧
    decodeBytes [0x60] = .error .truncated ∧ decodeTableWord 16 0x8014 = some (.addReg 0 1) ∧
    decodeTableWord 16 0x8128 = none := by decide
theorem test_assembler_syntax : (Instr.jump 0x300).asm = "jump 0x300" ∧
    (Instr.skipEqImm 3 0x10).asm = "skip-eq-imm reg3, 0x10" ∧ (Instr.shiftRight 0 0).asm = "shift-right reg0" ∧
    (Instr.drawSprite 1 2 5).asm = "draw-sprite reg1, reg2, 0x5" ∧ (Instr.randAnd 0 0x0F).asm = "rand-and reg0, 0x0F" ∧
    (Instr.clearScreen).asm = "clear-screen" := by decide

/-! ### Family 0x0 and the no-op -/

/-- Z1. -/
theorem test_clear_screen : view (run ((State.reset.togglePixel 0).togglePixel 2047) 0x00E0)
    (fun t => (t.pixel 0, t.pixel 2047, t.pc)) = some (false, false, 0x202) := by decide
/-- Z4. -/
theorem test_return : view (run (((State.reset.push 0x0202).push 0x0310).setPc 0x400) 0x00EE)
    (fun t => (t.sp, t.pc, t.stackSlot 1)) = some (1, 0x0310, 0x0310) := by decide
/-- Z5. -/
theorem test_return_underflow : view (run State.reset 0x00EE) (fun t => (t.sp, t.pc)) = some (15, 0x0000) ∧
    faultOf (run (State.reset.withStrict true) 0x00EE) = some .stackUnderflow := by decide
/-- The undefined no-op vector of section 2.1. -/
theorem test_undefined_no_op : view (run ((State.reset.setDT 3).setST 1) 0xF1FF)
    (fun t => (t.pc, t.DT, t.ST, t.tone)) = some (0x202, 2, 0, true) := by decide

/-! ### Families 0x1-0x7 -/

/-- JP1, JP3. -/
theorem test_jump : view (run State.reset 0x1ABC) (fun t => t.pc) = some 0x0ABC ∧
    view (run (State.reset.setPc 0x201) 0x1201) (fun t => t.pc) = some 0x0201 := by decide
/-- CL2. -/
theorem test_call : view (run { State.reset with sp := 15 } 0x2300) (fun t => (t.stackSlot 15, t.sp, t.pc)) =
    some (0x0202, 0, 0x0300) := by decide
/-- CL3. -/
theorem test_call_overflow : view (run fullStack 0x2300) (fun t => (t.stackSlot 0, t.sp)) = some (0x0202, 1) ∧
    faultOf (run (fullStack.withStrict true) 0x2300) = some .stackOverflow := by decide
/-- SK1-SK4. -/
theorem test_skip_imm : view (run (withRegs [(0, 0x10)]) 0x3010) (fun t => t.pc) = some 0x204 ∧
    view (run (withRegs [(0, 0x11)]) 0x3010) (fun t => t.pc) = some 0x202 ∧
    view (run (withRegs [(0, 0x10)]) 0x4010) (fun t => t.pc) = some 0x202 ∧
    view (run (withRegs [(0, 0x11)]) 0x4010) (fun t => t.pc) = some 0x204 := by decide
/-- SK9. -/
theorem test_skip_wraps : view (run (State.reset.setPc 0xFFFE) 0x3000) (fun t => t.pc) = some 0x0002 := by decide
/-- SK6, SK7. -/
theorem test_skip_eq_reg : view (run (withRegs [(1, 0x7F), (2, 0x7F)]) 0x5127) (fun t => t.pc) = some 0x204 ∧
    view (run (withRegs [(1, 0x7F), (2, 0x80)]) 0x5120) (fun t => t.pc) = some 0x202 := by decide
/-- LD1, LD2. -/
theorem test_load_imm : view (run State.reset 0x6AFF) (fun t => t.reg 10) = some 0xFF ∧
    view (run (withRegs [(15, 1)]) 0x6F00) (fun t => t.reg 15) = some 0 := by decide
/-- AD1. -/
theorem test_add_imm : view (run (withRegs [(0, 1), (15, 0x55)]) 0x70FF) (fun t => (t.reg 0, t.reg 15)) =
    some (0, 0x55) := by decide

/-! ### Family 0x8 (section 2.4) -/

theorem test_load_reg : view (run (ab 0x0F 0xF0) 0x8120) (fun t => (t.reg 1, t.reg 15)) = some (0xF0, 0x55) := by decide
theorem test_or : view (run (ab 0x05 0x03) 0x8121) (fun t => (t.reg 1, t.reg 15)) = some (0x07, 0x55) := by decide
theorem test_and : view (run (ab 0x05 0x03) 0x8122) (fun t => (t.reg 1, t.reg 15)) = some (0x01, 0x55) := by decide
theorem test_xor : view (run (ab 0xFF 0x01) 0x8123) (fun t => (t.reg 1, t.reg 15)) = some (0xFE, 0x55) := by decide
theorem test_add_reg : view (run (ab 0xFF 0x01) 0x8124) (fun t => (t.reg 1, t.reg 15)) = some (0x00, 0x01) ∧
    view (run (withRegs [(15, 0xC8), (2, 0x40)]) 0x8F24) (fun t => t.reg 15) = some 0x08 := by decide
theorem test_sub_reg : view (run (ab 0x80 0x80) 0x8125) (fun t => (t.reg 1, t.reg 15)) = some (0x00, 0x00) ∧
    view (run (withRegs [(1, 0xC8), (15, 0x40)]) 0x81F5) (fun t => (t.reg 1, t.reg 15)) = some (0xC7, 0x01) := by decide
theorem test_sub_reg_to_flag :
    view (run (withRegs [(15, 0xC8), (2, 0x40)]) 0x8F25) (fun t => t.reg 15) = some 0xC1 := by decide
theorem test_shift_right : view (run (ab 0x0F 0xF0) 0x8126) (fun t => (t.reg 1, t.reg 15)) = some (0x07, 0x01) ∧
    view (run (withRegs [(15, 0x03)]) 0x8F06) (fun t => t.reg 15) = some 0x00 := by decide
theorem test_subn_reg : view (run (ab 0x0F 0xF0) 0x8127) (fun t => (t.reg 1, t.reg 15)) = some (0xE1, 0x01) ∧
    view (run (withRegs [(1, 0xC8), (15, 0x40)]) 0x81F7) (fun t => (t.reg 1, t.reg 15)) = some (0x38, 0x00) := by decide
theorem test_shift_left : view (run (ab 0x80 0x80) 0x812E) (fun t => (t.reg 1, t.reg 15)) = some (0x00, 0x01) ∧
    view (run (withRegs [(15, 0xC8)]) 0x8F2E) (fun t => t.reg 15) = some 0x02 := by decide

/-! ### Families 0x9-0xD (section 2.5) -/

/-- SN1, SN2. -/
theorem test_skip_ne_reg : view (run (withRegs [(3, 1), (4, 2)]) 0x9340) (fun t => t.pc) = some 0x204 ∧
    view (run (withRegs [(3, 1), (4, 1)]) 0x9340) (fun t => t.pc) = some 0x202 := by decide
/-- LI1. -/
theorem test_load_index : view (run (State.reset.setI 0x1234) 0xA123) (fun t => t.I) = some 0x0123 := by decide
/-- JO2, JO3. -/
theorem test_jump_offset : view (run (withRegs [(0, 0xFF)]) 0xBFFF) (fun t => t.pc) = some 0x10FE ∧
    view (run (withRegs [(5, 0x40)]) 0xB500) (fun t => t.pc) = some 0x0500 := by decide
/-- RN1, RN2: the draw is the free value; a mask of 0 still consumes it. -/
theorem test_rand_and : view (run State.reset 0xC10F) (fun t => t.reg 1) = some (Config.randByte 0 &&& 0x0F) ∧
    view (run State.reset 0xC100) (fun t => t.draws) = some 1 := by exact ⟨rfl, rfl⟩
/-- DS1: glyph 0 at the top left; row y of the framebuffer with column 0 in bit 0. -/
theorem test_draw_glyph : view (run (State.reset.setI 0x050) 0xD005)
    (fun t => (t.fb.toList.take 6, t.reg 15)) = some ([15, 9, 9, 9, 15, 0], 0) := by decide
/-- DS4 and the source's S5: coordinates from the old reg[15], wrapping per pixel. -/
theorem test_draw_wraps_and_reads_old_flag :
    view (run (((withRegs [(15, 0x3E), (2, 1)]).setI 0x403).writeMem 0x403 0xC0) 0xDF21)
      (fun t => (t.pixel 126, t.pixel 127, t.pixel 64, t.reg 15)) = some (true, true, false, 0) ∧
    view (run (((withRegs [(1, 63), (2, 31)]).setI 0x400).writeMem 0x400 0xFF) 0xD121)
      (fun t => (t.pixel 2047, t.pixel 1984, t.pixel 1990, t.pixel 1991)) = some (true, true, true, false) := by decide
/-- DS2, DS7: a lit pixel turns off and is reported; height 0 clears the flag only. -/
theorem test_draw_collision :
    view (run (((State.reset.togglePixel 0).setI 0x400).writeMem 0x400 0x80) 0xD001)
      (fun t => (t.pixel 0, t.reg 15)) = some (false, 1) ∧
    view (run (withRegs [(15, 1)]) 0xD010) (fun t => (t.fb[0], t.reg 15)) = some (0, 0) := by decide

/-! ### Family 0xE (section 2.6) -/

/-- KT1, KT2, KT5. -/
theorem test_skip_key_pressed :
    view (run ((withRegs [(0, 0x15)]).hostKeypad 0x0020) 0xE09E) (fun t => t.pc) = some 0x204 ∧
    view (run (withRegs [(0, 0x05)]) 0xE09E) (fun t => t.pc) = some 0x202 ∧
    faultOf (run (((withRegs [(0, 0x15)]).hostKeypad 0x0020).withStrict true) 0xE09E) = some .keyIndexOutOfRange := by
  decide
/-- KT3, KT4. -/
theorem test_skip_key_not_pressed : view (run (withRegs [(0, 0x05)]) 0xE0A1) (fun t => t.pc) = some 0x204 ∧
    view (run ((withRegs [(0, 0x05)]).hostKeypad 0x0020) 0xE0A1) (fun t => t.pc) = some 0x202 := by decide

/-! ### Family 0xF (section 2.7) -/

/-- FX1. -/
theorem test_get_delay_timer : view (run (State.reset.setDT 4) 0xF107) (fun t => (t.reg 1, t.DT)) = some (4, 3) := by
  decide
/-- FX5, FX7. -/
theorem test_wait_key : view (run (State.reset.hostKeypad 0x0220) 0xF30A) (fun t => (t.reg 3, t.pc)) = some (5, 0x202) ∧
    view (run (State.reset.setDT 2) 0xF30A) (fun t => (t.pc, t.DT)) = some (0x200, 1) := by decide
/-- FX8, TM7. -/
theorem test_set_delay_timer : view (run (withRegs [(0, 3)]) 0xF015) (fun t => t.DT) = some 2 ∧
    view (run (State.reset.setDT 5) 0xF015) (fun t => t.DT) = some 0 := by decide
/-- FX10, TM6. -/
theorem test_set_sound_timer : view (run (withRegs [(0, 1)]) 0xF018) (fun t => (t.ST, t.tone)) = some (0, true) ∧
    view (run ((withRegs [(0, 5)]).setST 1) 0xF018) (fun t => (t.ST, t.tone)) = some (4, false) := by decide
/-- FX12, FX13. -/
theorem test_add_to_index : view (run ((withRegs [(1, 1)]).setI 0x0FFF) 0xF11E) (fun t => (t.I, t.reg 15)) =
      some (0x1000, 0) ∧ view (run ((withRegs [(1, 1)]).setI 0xFFFF) 0xF11E) (fun t => t.I) = some 0 := by decide
/-- FX14, FX17. -/
theorem test_font_char_address : view (run (withRegs [(0, 0x0A)]) 0xF029) (fun t => t.I) = some 0x0082 ∧
    view (run (withRegs [(0, 0xFF)]) 0xF029) (fun t => t.I) = some 0x054B := by decide
/-- FX22. -/
theorem test_store_bcd : view (run ((withRegs [(0, 0x89)]).setI 0x0FFE) 0xF033)
    (fun t => (t.readMem 0xFFE, t.readMem 0xFFF, t.readMem 0x000, t.I)) = some (1, 3, 7, 0x0FFE) := by decide
/-- FX27. -/
theorem test_store_registers : view (run ((withRegs [(0, 0xAA), (1, 0xBB), (2, 0xCC)]).setI 0x0FFE) 0xF255)
    (fun t => (t.readMem 0xFFE, t.readMem 0xFFF, t.readMem 0x000, t.readMem 0x001)) = some (0xAA, 0xBB, 0xCC, 0) := by
  decide
/-- FX26. -/
theorem test_load_registers :
    view (run ((((withRegs [(3, 0x99)]).setI 0x300).writeMem 0x300 1).writeMem 0x302 7) 0xF265)
      (fun t => (t.reg 0, t.reg 1, t.reg 2, t.reg 3, t.I)) = some (1, 0, 7, 0x99, 0x300) := by decide

/-! ### Step and host (section 2.8, section 3) -/

/-- The fetch vector: a word over the top of memory. -/
theorem test_fetch_wraps : view (step (((State.reset.setPc 0x0FFF).writeMem 0xFFF 0x60).writeMem 0x000 0x12))
    (fun t => (t.reg 0, t.pc, t.ir)) = some (0x12, 0x1001, 0x6012) := by decide
/-- RS2: from reset with nothing loaded, the word 0x0000 is clear-screen. -/
theorem test_step_from_reset : view (step State.reset) (fun t => (t.pc, t.ir)) = some (0x202, 0x0000) := by decide
/-- RS3. -/
theorem test_init_discards_program : ((State.reset.hostLoad 0x200 0x60).hostInit).readMem 0x200 = 0 := by decide
/-- The loader's bytes stand from 0x200 up (R74). -/
theorem test_load_image : ((State.reset.loadImage [0x60, 0x05]).readMem 0x200,
    (State.reset.loadImage [0x60, 0x05]).readMem 0x201) = (0x60, 0x05) := by decide

/-- The output signals after FX10's Step (R268). -/
theorem test_ports : view (run ((withRegs [(0, 1)]).togglePixel 5) 0xF018)
    (fun t => (t.portsOut 5, (t.portsOut 6).fbPixel)) =
      some ({ ready := true, tone := true, fbPixel := true, delayTimer := 0, soundTimer := 0 }, false) := by decide

/-! ### Witnesses: a state and operands that meet each obligation's hypotheses -/

theorem witness_StepRunsTheDecodedInstruction :
    decode ((State.reset.withFetchWord 16 0x6005).readMem 0x200 ++ (State.reset.withFetchWord 16 0x6005).readMem 0x201) =
      .ok (.loadImm 0 5) := by decide
theorem witness_UndefinedWordIsANoOp :
    decode ((State.reset.withFetchWord 16 0x0123).readMem 0x200 ++ (State.reset.withFetchWord 16 0x0123).readMem 0x201) =
      .error (.family0 3) := by decide
theorem witness_HardwareNeverStops : State.reset.cfg.strictUB = false := rfl
theorem witness_StrictAgreesWithHardware : ∃ t, exec (.call 0x300) (State.reset.withStrict true) = .next t := ⟨_, rfl⟩
theorem witness_FetchReadsBigEndianWordAtPc : ∃ t, step State.reset = .next t := ⟨_, rfl⟩
theorem witness_TimersSaturateAtZero : ∃ t, step (State.reset.setDT 1) = .next t := ⟨_, rfl⟩
theorem witness_ToneMarksTheSoundTimersLastTick : ∃ u t, execute (State.reset.setST 1).fetch.ir
    (State.reset.setST 1).fetch.advance = .next u ∧ step (State.reset.setST 1) = .next t ∧
    ∀ x, decode (State.reset.setST 1).fetchedWord ≠ .ok (.setSoundTimer x) := ⟨_, _, rfl, rfl, by decide⟩
theorem witness_StepKeepsTheInvariant : State.reset.Inv ∧ ∃ t, step State.reset = .next t :=
  ⟨⟨Memory.wf_nil _, rfl, by decide⟩, _, rfl⟩
theorem witness_StepKeepsTheInvariant_strict : (State.resetWith { Config.default with strictUB := true }).Inv ∧
    ∃ t, step ((State.resetWith { Config.default with strictUB := true }).withFetchWord 16 0x2300) = .next t :=
  ⟨⟨Memory.wf_nil _, rfl, by decide⟩, _, rfl⟩
theorem witness_EveryRunKeepsTheInvariant : State.reset.Inv ∧
    ∃ t r, session [.init, .writeMemory 0x200 0x60, .writeKeypad 1, .step, .readTimers, .readPixel 0] State.reset =
      .next (t, r) := ⟨⟨Memory.wf_nil _, rfl, by decide⟩, _, _, rfl⟩
theorem witness_StateIsWrittenOnlyByItsWriters_stack :
    view (exec (.call 0x300) State.reset) (fun t => decide (t.stack ≠ State.reset.stack ∧ t.sp ≠ State.reset.sp ∧
      t.callDepth ≠ State.reset.callDepth ∧ t.pc ≠ State.reset.pc)) = some true := by decide
theorem witness_StateIsWrittenOnlyByItsWriters_screen :
    view (exec .clearScreen (State.reset.togglePixel 5)) (fun t => decide (t.fb ≠ (State.reset.togglePixel 5).fb)) =
      some true := by decide
theorem witness_StateIsWrittenOnlyByItsWriters_registers :
    view (exec (.loadIndex 1) State.reset) (fun t => decide (t.I ≠ State.reset.I)) = some true ∧
    view (exec (.setDelayTimer 0) (withRegs [(0, 1)])) (fun t => decide (t.DT ≠ 0)) = some true ∧
    view (exec (.setSoundTimer 0) (withRegs [(0, 1)])) (fun t => decide (t.ST ≠ 0)) = some true := by decide
theorem witness_StateIsWrittenOnlyByItsWriters_memory :
    view (exec (.storeRegisters 0) (withRegs [(0, 1)])) (fun t => decide (t.mem ≠ [])) = some true ∧
    view (exec (.randAnd 0 0) State.reset) (fun t => decide (t.draws ≠ 0)) = some true := by decide
theorem witness_RegistersAreWrittenOnlyByTheirWriters :
    view (exec (.loadImm 3 1) State.reset) (fun t => decide (t.reg 3 ≠ State.reset.reg 3)) = some true ∧
    view (exec (.addReg 1 2) (ab 1 1)) (fun t => decide (t.reg 15 ≠ (ab 1 1).reg 15)) = some true := by decide
theorem witness_FlagWritesAreZeroOrOne : (∃ t, exec (.addReg 1 2) State.reset = .next t) ∧
    (Instr.addReg 1 2).writesFlag = true ∧ (Instr.addReg 1 2).namesDest 15 = false := ⟨⟨_, rfl⟩, by decide⟩
theorem witness_ReturnPopsThePc : ¬(State.reset.cfg.strictUB = true ∧ State.reset.callDepth = 0) ∧
    (State.reset.withStrict true).cfg.strictUB = true ∧ (State.reset.withStrict true).callDepth = 0 := by decide
theorem witness_JumpSetsPc : (State.reset.withFetchWord 16 0x1200).pc = (0x200 : Addr).setWidth 16 ∧
    decode (State.reset.withFetchWord 16 0x1200).fetchedWord = .ok (.jump 0x200) := by decide
theorem witness_CallPushesThePc : ¬(State.reset.cfg.strictUB = true ∧ State.reset.callDepth = 16) ∧
    (fullStack.withStrict true).cfg.strictUB = true ∧ (fullStack.withStrict true).callDepth = 16 := by decide
theorem witness_ReturnAfterCallComesBack : State.reset.Inv ∧ ∃ t, exec (.call 0x300) State.reset = .next t :=
  ⟨⟨Memory.wf_nil _, rfl, by decide⟩, _, rfl⟩
theorem witness_SelfJumpChangesOnlyTimers : (State.reset.withFetchWord 16 0x1200).pc = (0x200 : Addr).setWidth 16 ∧
    decode ((State.reset.withFetchWord 16 0x1200).readMem 0x200 ++ (State.reset.withFetchWord 16 0x1200).readMem 0x201) =
      .ok (.jump 0x200) := by decide
theorem witness_corner_cases_of_reg15 : (1 : Nibble) ≠ 15 ∧ (2 : Nibble) ≠ 15 ∧ (14 : Nibble) ≠ 15 := by decide
theorem witness_KeyTestsSkipOnTheSelectedKey :
    ¬(((withRegs [(0, 15)]).withStrict true).cfg.strictUB = true ∧ (((withRegs [(0, 15)]).withStrict true).reg 0).toNat > 15) ∧
    ((withRegs [(0, 16)]).withStrict true).cfg.strictUB = true ∧ (((withRegs [(0, 16)]).withStrict true).reg 0).toNat > 15 := by
  decide
theorem witness_WaitKeyTakesTheLowestKeyOrRewinds : (State.reset.hostKeypad 0x8000).keypad ≠ 0 ∧
    State.reset.keypad = 0 ∧ ∃ k < 15, (State.reset.hostKeypad 0x8000).keypad.getLsbD k = false := by decide
theorem witness_WaitKeyHoldsPcWhileTimersRun : (State.reset.withFetchWord 16 0xF30A).keypad = 0 ∧
    decode ((State.reset.withFetchWord 16 0xF30A).readMem 0x200 ++ (State.reset.withFetchWord 16 0xF30A).readMem 0x201) =
      .ok (.waitKey 3) := by decide
/-- A program of a set-delay-timer and a get-delay-timer (Program F's words). -/
theorem witness_DelayTimerReadsOneLessInTheNextStep : ∃ t u,
    decode ((withRegs [(0, 3)]).loadImage [0xF0, 0x15, 0xF1, 0x07]).fetchedWord = .ok (.setDelayTimer 0) ∧
    step ((withRegs [(0, 3)]).loadImage [0xF0, 0x15, 0xF1, 0x07]) = .next t ∧
    decode t.fetchedWord = .ok (.getDelayTimer 1) ∧ step t = .next u := ⟨_, _, rfl, rfl, rfl, rfl⟩
theorem witness_StoreRegistersWritesRegToX : (15 : Nibble).toNat ≤ (15 : Nibble).toNat ∧
    (0 : Nibble).toNat ≤ (0 : Nibble).toNat ∧ (0 : Nibble).toNat < (1 : Nibble).toNat := by decide
theorem witness_StoreThenLoadRegistersRestores : ∃ t u, exec (.storeRegisters 3) (withRegs [(0, 1)]) = .next t ∧
    u = { t with regs := State.reset.regs } := ⟨_, _, rfl, rfl⟩
theorem witness_HostWritesAndTransactions : ∃ t, step State.reset = .next t := ⟨_, rfl⟩
theorem witness_LoaderCopiesTheImage : imageWf (List.replicate 3584 0) = true ∧ 3583 < (List.replicate 3584 0#8).length := by
  decide +kernel
theorem witness_InitializeLeavesResetValues : (0x04F : Word).toNat % 4096 < 0x050 ∧ 0x09F < (0x0A0 : Word).toNat % 4096 := by
  decide

end Sys2Proof.Tests
end

section
/-! SUPPORT. The instructions whose end depends on the state (return, call, the two key tests, wait-key): when each ends in
a next state, and in which. Every other instruction always ends in the one next state its meaning writes out. -/

namespace Sys2Proof.Machine

/-- A meaning that faults under a condition and otherwise ends in one next state. -/
theorem ite_fault_eq_next_iff (c : Prop) [Decidable c] (f : Fault) (u t : State) :
    (if c then .fault f else .next u : Host.Outcome State Fault Refusal) = .next t ↔ ¬c ∧ t = u := by
  by_cases hc : c <;> simp [hc, eq_comm (a := t)]

theorem execRet_eq_next_iff (s t : State) :
    execRet s = .next t ↔
      ¬(s.cfg.strictUB = true ∧ s.callDepth = 0) ∧ t = s.pop.setPc (s.pop.stackSlot s.pop.sp) :=
  ite_fault_eq_next_iff _ _ _ t

theorem execCall_eq_next_iff (nnn : Addr) (s t : State) :
    execCall nnn s = .next t ↔
      ¬(s.cfg.strictUB = true ∧ s.callDepth = 16) ∧ t = (s.push s.pc).setPc (nnn.setWidth 16) :=
  ite_fault_eq_next_iff _ _ _ t

theorem keyTest_eq_next_iff (x : Nibble) (pressed : Bool) (s t : State) :
    keyTest x pressed s = .next t ↔
      ¬(s.cfg.strictUB = true ∧ (s.reg x).toNat > 15) ∧
        t = s.skipIf (s.keyPressed (keySelect (s.reg x)) == pressed) :=
  ite_fault_eq_next_iff _ _ _ t

/-- wait-key either takes the lowest pressed key or rewinds the counter (45_familyF_misc.md R211). -/
theorem execWaitKey_cases {x : Nibble} {s t : State} (h : execWaitKey x s = .next t) :
    (∃ k, lowestKey s.keypad = some k ∧ t = s.setReg x (BitVec.ofNat 8 k)) ∨
      (lowestKey s.keypad = none ∧ t = s.setPc (s.pc - 2)) := by
  unfold execWaitKey at h
  split at h <;> cases h
  · exact .inl ⟨_, ‹_›, rfl⟩
  · exact .inr ⟨‹_›, rfl⟩

/-- A skip writes the program counter only. -/
theorem State.skipIf_eq (s : State) (c : Bool) : s.skipIf c = { s with pc := (s.skipIf c).pc } := by
  cases c <;> rfl

end Sys2Proof.Machine
end

section
/-! SUPPORT. The access summary of spec/10_state.md as record updates: the fields each instruction may write. -/

namespace Sys2Proof.Machine

/-- `t` is `s` but for the fields that `i` may write. -/
def WritesOnlyItsFields (i : Instr) (s t : State) : Prop :=
  match i with
  | .clearScreen => t = { s with fb := t.fb }
  | .drawSprite _ _ _ => DrawnFrom s t
  | .ret => t = { s with pc := t.pc, sp := t.sp, callDepth := t.callDepth }
  | .call _ => t = { s with pc := t.pc, stack := t.stack, sp := t.sp, callDepth := t.callDepth }
  | .jump _ | .jumpOffset _ | .skipEqImm _ _ | .skipNeImm _ _ | .skipEqReg _ _ | .skipNeReg _ _
  | .skipKeyPressed _ | .skipKeyNotPressed _ => t = { s with pc := t.pc }
  | .loadImm _ _ | .addImm _ _ | .loadReg _ _ | .orReg _ _ | .andReg _ _ | .xorReg _ _ | .addReg _ _ | .subReg _ _
  | .shiftRight _ _ | .subnReg _ _ | .shiftLeft _ _ | .getDelayTimer _ | .loadRegisters _ => t = { s with regs := t.regs }
  | .randAnd _ _ => t = { s with regs := t.regs, draws := t.draws }
  | .waitKey _ => t = { s with pc := t.pc, regs := t.regs }
  | .loadIndex _ | .addToIndex _ | .fontCharAddress _ => t = { s with I := t.I }
  | .setDelayTimer _ => t = { s with DT := t.DT }
  | .setSoundTimer _ => t = { s with ST := t.ST }
  | .storeBcd _ | .storeRegisters _ => t = { s with mem := t.mem }

/-- Every instruction that ends in a next state writes only the fields the access summary gives it. -/
theorem exec_writesOnlyItsFields {i : Instr} {s t : State} (h : exec i s = .next t) : WritesOnlyItsFields i s t := by
  cases i with
  | ret => rw [((execRet_eq_next_iff s t).mp h).2]; rfl
  | call nnn => rw [((execCall_eq_next_iff nnn s t).mp h).2]; rfl
  | skipKeyPressed x => rw [((keyTest_eq_next_iff x true s t).mp h).2]; exact s.skipIf_eq _
  | skipKeyNotPressed x => rw [((keyTest_eq_next_iff x false s t).mp h).2]; exact s.skipIf_eq _
  | waitKey x => obtain ⟨k, -, rfl⟩ | ⟨-, rfl⟩ := execWaitKey_cases h <;> rfl
  | skipEqImm | skipNeImm | skipEqReg | skipNeReg => cases h; exact s.skipIf_eq _
  | drawSprite x y n => cases h; exact DrawnFrom.trans s (s.setFlag false) _ rfl (drawRows_drawnFrom _ _ _ _)
  | storeRegisters x => cases h; exact storeRegs_eq s _
  | loadRegisters x => cases h; exact loadRegs_eq s _
  | _ => cases h; rfl

/-! ### The writers of each field -/

section
variable {i : Instr} {s t : State} (h : exec i s = .next t)
include h

/-- The keypad, the parameters, ir and tone have no writer among the instructions (10_state.md R35, R38, R39). -/
theorem exec_keeps_inputs : t.keypad = s.keypad ∧ t.cfg = s.cfg ∧ t.ir = s.ir ∧ t.tone = s.tone := by
  have hw := exec_writesOnlyItsFields h
  cases i <;> (rw [hw]; exact ⟨rfl, rfl, rfl, rfl⟩)

theorem stack_writer (hne : t.stack ≠ s.stack) : ∃ nnn, i = .call nnn := by
  have hw := exec_writesOnlyItsFields h
  cases i with
  | call nnn => exact ⟨nnn, rfl⟩
  | _ => exact absurd (by rw [hw]) hne

theorem sp_callDepth_writer (hne : t.sp ≠ s.sp ∨ t.callDepth ≠ s.callDepth) : i = .ret ∨ ∃ nnn, i = .call nnn := by
  have hw := exec_writesOnlyItsFields h
  cases i with
  | ret => exact .inl rfl
  | call nnn => exact .inr ⟨nnn, rfl⟩
  | _ => exact absurd hne (by rw [hw]; simp)

theorem fb_writer (hne : t.fb ≠ s.fb) : i = .clearScreen ∨ ∃ x y n, i = .drawSprite x y n := by
  have hw := exec_writesOnlyItsFields h
  cases i with
  | clearScreen => exact .inl rfl
  | drawSprite x y n => exact .inr ⟨x, y, n, rfl⟩
  | _ => exact absurd (by rw [hw]) hne

theorem I_writer (hne : t.I ≠ s.I) :
    (∃ nnn, i = .loadIndex nnn) ∨ ∃ x, i = .addToIndex x ∨ i = .fontCharAddress x := by
  have hw := exec_writesOnlyItsFields h
  cases i with
  | loadIndex nnn => exact .inl ⟨nnn, rfl⟩
  | addToIndex x => exact .inr ⟨x, .inl rfl⟩
  | fontCharAddress x => exact .inr ⟨x, .inr rfl⟩
  | _ => exact absurd (by rw [hw]) hne

theorem DT_writer (hne : t.DT ≠ s.DT) : ∃ x, i = .setDelayTimer x := by
  have hw := exec_writesOnlyItsFields h
  cases i with
  | setDelayTimer x => exact ⟨x, rfl⟩
  | _ => exact absurd (by rw [hw]) hne

theorem ST_writer (hne : t.ST ≠ s.ST) : ∃ x, i = .setSoundTimer x := by
  have hw := exec_writesOnlyItsFields h
  cases i with
  | setSoundTimer x => exact ⟨x, rfl⟩
  | _ => exact absurd (by rw [hw]) hne

theorem mem_writer (hne : t.mem ≠ s.mem) : ∃ x, i = .storeBcd x ∨ i = .storeRegisters x := by
  have hw := exec_writesOnlyItsFields h
  cases i with
  | storeBcd x => exact ⟨x, .inl rfl⟩
  | storeRegisters x => exact ⟨x, .inr rfl⟩
  | _ => exact absurd (by rw [hw]) hne

theorem draws_writer (hne : t.draws ≠ s.draws) : ∃ x kk, i = .randAnd x kk := by
  have hw := exec_writesOnlyItsFields h
  cases i with
  | randAnd x kk => exact ⟨x, kk, rfl⟩
  | _ => exact absurd (by rw [hw]) hne

theorem pc_writer (hne : t.pc ≠ s.pc) :
    i = .ret ∨ (∃ nnn, i = .jump nnn ∨ i = .call nnn ∨ i = .jumpOffset nnn) ∨
      (∃ x kk, i = .skipEqImm x kk ∨ i = .skipNeImm x kk) ∨ (∃ x y, i = .skipEqReg x y ∨ i = .skipNeReg x y) ∨
      ∃ x, i = .skipKeyPressed x ∨ i = .skipKeyNotPressed x ∨ i = .waitKey x := by
  have hw := exec_writesOnlyItsFields h
  cases i with
  | ret | jump | call | jumpOffset | skipEqImm | skipNeImm | skipEqReg | skipNeReg | skipKeyPressed
  | skipKeyNotPressed | waitKey => simp
  | _ => exact absurd (by rw [hw]) hne

end

end Sys2Proof.Machine
end

section
/-! SUPPORT. Registers and the flag register (spec/10_state.md R21-R23): which registers an instruction changes, and what
a flag write leaves in reg[15]. -/

namespace Sys2Proof.Machine

theorem State.reg_setReg_of_ne (s : State) {x r : Nibble} (v : Byte) (hr : r ≠ x) : (s.setReg x v).reg r = s.reg r := by
  simp [hr]

theorem State.reg_setFlag_of_ne (s : State) {r : Nibble} (b : Bool) (hr : r ≠ flagReg) : (s.setFlag b).reg r = s.reg r :=
  s.reg_setReg_of_ne _ hr

/-- The shape in which the five flag-writing ALU instructions end: a flag write, then the destination. -/
theorem State.reg_setFlag_setReg_of_ne (s : State) {x r : Nibble} (b : Bool) (v : Byte) (hx : r ≠ x) (hr : r ≠ flagReg) :
    ((s.setFlag b).setReg x v).reg r = s.reg r :=
  (State.reg_setReg_of_ne _ v hx).trans (s.reg_setFlag_of_ne b hr)

/-- A sprite writes no register but reg[15] (43_families9toD.md R184, R185). -/
theorem reg_drawRows_of_ne (s : State) (xs ys : Nat) (rows : List Nat) {r : Nibble} (hr : r ≠ flagReg) :
    (rows.foldl (State.drawRow xs ys) s).reg r = s.reg r :=
  OnlyChanges.foldl _ rows s (fun t row _ => t.drawRow_frame xs ys row) (.reg r) (by simpa using hr)

/-- A register that the instruction neither names as destination nor writes as the flag keeps its value. -/
theorem exec_keeps_reg {i : Instr} {s t : State} {r : Nibble} (h : exec i s = .next t)
    (hdest : i.namesDest r = false) (hflag : i.writesFlag = true → r ≠ flagReg) : t.reg r = s.reg r := by
  have hw := exec_writesOnlyItsFields h
  cases i with
  | loadImm | addImm | loadReg | orReg | andReg | xorReg | getDelayTimer | randAnd =>
    cases h
    exact State.reg_setReg_of_ne _ _ (ne_of_beq_false hdest)
  | addReg | subReg | shiftRight | subnReg | shiftLeft =>
    cases h
    exact s.reg_setFlag_setReg_of_ne _ _ (ne_of_beq_false hdest) (hflag rfl)
  | waitKey x =>
    obtain ⟨k, -, rfl⟩ | ⟨-, rfl⟩ := execWaitKey_cases h
    · exact s.reg_setReg_of_ne _ (ne_of_beq_false hdest)
    · rfl
  | loadRegisters x =>
    cases h
    have hr : r ∉ regsUpTo x := fun hmem => of_decide_eq_false hdest ((mem_regsUpTo x r).mp hmem)
    exact (reg_loadRegs _ s r).trans (if_neg hr)
  | drawSprite x y n =>
    cases h
    exact (reg_drawRows_of_ne _ _ _ _ (hflag rfl)).trans (s.reg_setFlag_of_ne false (hflag rfl))
  | _ => rw [hw]; rfl

/-- reg[15] holds a flag value (10_state.md R23). -/
def State.FlagIsBit (s : State) : Prop := s.reg flagReg = 0 ∨ s.reg flagReg = 1

theorem State.flagIsBit_setFlag (s : State) (b : Bool) : (s.setFlag b).FlagIsBit := by
  simpa [State.FlagIsBit] using flagByte_cases b

/-- The destination write after a flag write leaves the flag, where the destination is not reg[15]. -/
theorem State.flagIsBit_setFlag_setReg (s : State) {x : Nibble} (b : Bool) (v : Byte) (hx : flagReg ≠ x) :
    ((s.setFlag b).setReg x v).FlagIsBit := by
  rw [State.FlagIsBit, State.reg_setReg_of_ne _ v hx]
  exact s.flagIsBit_setFlag b

/-- A sprite pixel leaves reg[15] or latches it at 1 (43_families9toD.md R185). -/
theorem State.flagIsBit_drawPixel {s : State} (hs : s.FlagIsBit) (xs ys row col : Nat) (b : Byte) :
    (State.drawPixel xs ys row b s col).FlagIsBit := by
  rw [State.FlagIsBit, State.reg_drawPixel]
  split
  · exact .inr rfl
  · exact hs

theorem State.flagIsBit_drawRow {s : State} (hs : s.FlagIsBit) (xs ys row : Nat) :
    (State.drawRow xs ys s row).FlagIsBit :=
  List.foldlRecOn _ _ hs (fun _ ht col _ => State.flagIsBit_drawPixel ht xs ys row col _)

theorem flagIsBit_drawRows {s : State} (hs : s.FlagIsBit) (xs ys : Nat) (rows : List Nat) :
    (rows.foldl (State.drawRow xs ys) s).FlagIsBit :=
  List.foldlRecOn _ _ hs (fun _ ht row _ => State.flagIsBit_drawRow ht xs ys row)

theorem exec_flagIsBit {i : Instr} {s t : State} (h : exec i s = .next t) (hflag : i.writesFlag = true)
    (hdest : i.namesDest flagReg = false) : t.FlagIsBit := by
  cases i with
  | addReg | subReg | shiftRight | subnReg | shiftLeft =>
    cases h
    exact s.flagIsBit_setFlag_setReg _ _ (ne_of_beq_false hdest)
  | drawSprite x y n =>
    cases h
    exact flagIsBit_drawRows (s.flagIsBit_setFlag false) _ _ _
  | _ => cases hflag

end Sys2Proof.Machine
end

section
/-! SUPPORT. What Initialize leaves (spec/70_reset_and_hazards.md R280). -/

namespace Sys2Proof.Machine

/-- After Initialize memory is what the parameters say, at the decoded address (20_memory.md R61, R64, R65). -/
theorem State.readMem_hostInit (s : State) (a : Word) : s.hostInit.readMem a = s.cfg.resetByte (memAddr a) := rfl

theorem memAddr_font (k : Fin 80) : memAddr (BitVec.ofNat 16 (0x050 + k)) = fontBase + k := by
  have hk := k.isLt
  have hbase : fontBase = 0x050 := rfl
  simp only [memAddr, BitVec.toNat_ofNat]
  omega

theorem State.readMem_hostInit_font (s : State) (k : Fin 80) :
    s.hostInit.readMem (BitVec.ofNat 16 (0x050 + k)) = s.cfg.fontData[k] := by
  rw [s.readMem_hostInit, memAddr_font, resetByte_font]

theorem State.readMem_hostInit_other (s : State) (a : Word) (ha : a.toNat % 4096 < 0x050 ∨ 0x09F < a.toNat % 4096) :
    s.hostInit.readMem a = 0x00 :=
  (s.readMem_hostInit a).trans (resetByte_other s.cfg (memAddr a) ha)

end Sys2Proof.Machine
end

section
/-! SUPPORT. No rule reads the tone a Step finds (spec/10_state.md R39, D10): every instruction gives, on a state with
another tone, the state it gives without, with that tone; the timer phase then sets the tone anew. -/

namespace Sys2Proof.Machine

/-- The next state of an outcome, changed by `f`; a stop stays as it is. -/
def mapNext (f : State → State) : Host.Outcome State Fault Refusal → Host.Outcome State Fault Refusal
  | .next t => .next (f t)
  | .fault r => .fault r
  | .refused r => .refused r

theorem step_eq_mapNext (s : State) : step s = mapNext State.tickTimers (execute s.fetch.ir s.fetch.advance) := by
  unfold step
  cases execute s.fetch.ir s.fetch.advance <;> rfl

theorem mapNext_mapNext (f g : State → State) (o : Host.Outcome State Fault Refusal) :
    mapNext f (mapNext g o) = mapNext (f ∘ g) o := by
  cases o <;> rfl

/-- The state with another tone. -/
def State.withTone (b : Bool) (s : State) : State := { s with tone := b }

theorem State.skipIf_withTone (b : Bool) (s : State) (c : Bool) : (s.withTone b).skipIf c = (s.skipIf c).withTone b := by
  cases c <;> rfl

theorem State.drawPixel_withTone (b : Bool) (xs ys row : Nat) (byte : Byte) (s : State) (col : Nat) :
    State.drawPixel xs ys row byte (s.withTone b) col = (State.drawPixel xs ys row byte s col).withTone b := by
  unfold State.drawPixel
  split
  · have hpixel : ∀ p, (s.withTone b).pixel p = s.pixel p := fun _ => rfl
    simp only [hpixel]
    split <;> rfl
  · rfl

theorem State.drawRow_withTone (b : Bool) (xs ys : Nat) (s : State) (row : Nat) :
    State.drawRow xs ys (s.withTone b) row = (State.drawRow xs ys s row).withTone b :=
  List.foldl_hom (State.withTone b) (State.drawPixel_withTone b xs ys row _)

theorem execRet_withTone (b : Bool) (s : State) :
    execRet (s.withTone b) = mapNext (State.withTone b) (execRet s) := by
  unfold execRet
  rw [apply_ite (mapNext (State.withTone b))]
  rfl

theorem execCall_withTone (nnn : Addr) (b : Bool) (s : State) :
    execCall nnn (s.withTone b) = mapNext (State.withTone b) (execCall nnn s) := by
  unfold execCall
  rw [apply_ite (mapNext (State.withTone b))]
  rfl

theorem keyTest_withTone (x : Nibble) (pressed b : Bool) (s : State) :
    keyTest x pressed (s.withTone b) = mapNext (State.withTone b) (keyTest x pressed s) := by
  unfold keyTest
  rw [apply_ite (mapNext (State.withTone b)), mapNext, mapNext, ← State.skipIf_withTone]
  rfl

theorem execWaitKey_withTone (x : Nibble) (b : Bool) (s : State) :
    execWaitKey x (s.withTone b) = mapNext (State.withTone b) (execWaitKey x s) := by
  have hkeypad : (s.withTone b).keypad = s.keypad := rfl
  unfold execWaitKey
  rw [hkeypad]
  cases lowestKey s.keypad <;> rfl

/-- An instruction neither reads nor writes the tone. -/
theorem exec_withTone (i : Instr) (b : Bool) (s : State) :
    exec i (s.withTone b) = mapNext (State.withTone b) (exec i s) := by
  cases i with
  | ret => exact execRet_withTone b s
  | call nnn => exact execCall_withTone nnn b s
  | skipKeyPressed x => exact keyTest_withTone x true b s
  | skipKeyNotPressed x => exact keyTest_withTone x false b s
  | waitKey x => exact execWaitKey_withTone x b s
  | skipEqImm | skipNeImm | skipEqReg | skipNeReg => exact congrArg Host.Outcome.next (s.skipIf_withTone b _)
  | drawSprite x y n =>
    exact congrArg Host.Outcome.next
      (List.foldl_hom (State.withTone b) (init := s.setFlag false) (State.drawRow_withTone b _ _))
  | storeRegisters | loadRegisters =>
    exact congrArg Host.Outcome.next (List.foldl_hom (State.withTone b) (fun _ _ => rfl))
  | _ => rfl

theorem execute_withTone (w : Word) (b : Bool) (s : State) :
    execute w (s.withTone b) = mapNext (State.withTone b) (execute w s) := by
  unfold execute
  cases decode w with
  | ok i => exact exec_withTone i b s
  | error e => rfl

theorem State.tickTimers_withTone (b : Bool) (s : State) : (s.withTone b).tickTimers = s.tickTimers := by
  rw [State.tickTimers_eq, State.tickTimers_eq]
  rfl

end Sys2Proof.Machine
end

section
/-! PROOFS. The obligations of spec/10_state.md, each from the lemmas above. -/

namespace Sys2Proof.Machine

/-- Settles O6: the reset state's registers and counter. -/
theorem initializeZeroesRegistersAndSetsPc : Obligations.InitializeZeroesRegistersAndSetsPc :=
  fun s => ⟨reg_resetWith s.cfg, rfl, reg_resetWith Config.default, rfl⟩

/-- Settles O7: the reset state's fields, and memory as `Config.resetByte` gives it. -/
theorem initializeLeavesResetValues : Obligations.InitializeLeavesResetValues :=
  fun s => ⟨rfl, rfl, stackSlot_resetWith s.cfg, rfl, rfl, rfl, pixel_resetWith s.cfg, rfl, rfl, rfl,
    s.readMem_hostInit_font, s.readMem_hostInit_other⟩

/-- Settles O20: the writers of each field, put together. -/
theorem stateIsWrittenOnlyByItsWriters : Obligations.StateIsWrittenOnlyByItsWriters := by
  intro i s t h
  obtain ⟨hkeypad, hcfg, hir, htone⟩ := exec_keeps_inputs h
  exact ⟨hkeypad, hcfg, hir, htone, stack_writer h, sp_callDepth_writer h, fb_writer h, I_writer h, DT_writer h,
    ST_writer h, mem_writer h, draws_writer h, pc_writer h⟩

/-- Settles O21: the contrapositive of `exec_keeps_reg`. -/
theorem registersAreWrittenOnlyByTheirWriters : Obligations.RegistersAreWrittenOnlyByTheirWriters := by
  intro i s t r h hne
  by_contra hnone
  obtain ⟨hdest, hflag⟩ := not_or.mp hnone
  exact hne (exec_keeps_reg h (Bool.eq_false_iff.mpr hdest) (fun hwrites hr => hflag ⟨hr, hwrites⟩))

/-- Settles O22: every write such an instruction makes to reg[15] is a flag write. -/
theorem flagWritesAreZeroOrOne : Obligations.FlagWritesAreZeroOrOne :=
  fun _ _ _ h hflag hdest => exec_flagIsBit h hflag hdest

/-- Settles O16: fetch replaces ir, the execute phase carries the tone along, and the timer phase replaces it. -/
theorem stepIgnoresOldIrAndTone : Obligations.StepIgnoresOldIrAndTone := by
  intro s w b
  have hfetch : (State.fetch { s with ir := w, tone := b }).advance = s.fetch.advance.withTone b := rfl
  have hir : (State.fetch { s with ir := w, tone := b }).ir = s.fetch.ir := rfl
  have htick : State.tickTimers ∘ State.withTone b = State.tickTimers := funext (State.tickTimers_withTone b)
  rw [step_eq_mapNext, hir, hfetch, execute_withTone, mapNext_mapNext, htick, ← step_eq_mapNext]

end Sys2Proof.Machine
end

section
/-! SUPPORT. The invariant `State.Inv` (spec/20_memory.md R60, spec/10_state.md R33, D21): the fields it reads, and each
operation that writes one of them. -/

namespace Sys2Proof.Machine

/-- The invariant reads the parameters, memory, the stack pointer and the ghost call depth, and no other field. -/
theorem State.Inv.of_fields_eq {s t : State} (h : s.Inv) (hcfg : t.cfg = s.cfg) (hmem : t.mem = s.mem)
    (hsp : t.sp = s.sp) (hdepth : t.callDepth = s.callDepth) : t.Inv where
  memory := by rw [hcfg, hmem]; exact h.memory
  stackPointer := by rw [hsp, hdepth]; exact h.stackPointer
  depthBound := by rw [hcfg, hdepth]; exact h.depthBound

theorem State.inv_resetWith (c : Config) : (State.resetWith c).Inv where
  memory := Memory.wf_nil c
  stackPointer := rfl
  depthBound := fun _ => (by decide : (0 : Int) ≤ 0 ∧ (0 : Int) ≤ 16)

theorem State.inv_hostInit (s : State) : s.hostInit.Inv := (State.inv_resetWith s.cfg).of_fields_eq rfl rfl rfl rfl

theorem State.Inv.setPc {s : State} (h : s.Inv) (v : Word) : (s.setPc v).Inv := h.of_fields_eq rfl rfl rfl rfl

theorem State.Inv.tickTimers {s : State} (h : s.Inv) : s.tickTimers.Inv := by
  rw [State.tickTimers_eq]
  exact h.of_fields_eq rfl rfl rfl rfl

theorem State.Inv.writeMem {s : State} (h : s.Inv) (a : Word) (v : Byte) : (s.writeMem a v).Inv where
  memory := s.wf_writeMem a v h.memory
  stackPointer := h.stackPointer
  depthBound := h.depthBound

theorem State.Inv.storeRegs {s : State} (h : s.Inv) (l : List Nibble) : (l.foldl State.storeReg s).Inv := by
  induction l generalizing s with
  | nil => exact h
  | cons i l ih => exact ih (h.writeMem _ _)

/-- The condition that makes a call a fault is the one that would take the depth past 16 (D21). -/
theorem State.Inv.push {s : State} (h : s.Inv) (hroom : ¬(s.cfg.strictUB = true ∧ s.callDepth = 16)) (v : Word) :
    (s.push v).Inv where
  memory := h.memory
  stackPointer := by
    rw [State.push_sp, State.push_callDepth, BitVec.ofInt_add, h.stackPointer]
    rfl
  depthBound := fun hstrict => by
    have hbound := h.depthBound hstrict
    have hne : s.callDepth ≠ 16 := fun hd => hroom ⟨hstrict, hd⟩
    rw [State.push_callDepth]
    omega

/-- The condition that makes a return a fault is the one that would take the depth below 0 (D21). -/
theorem State.Inv.pop {s : State} (h : s.Inv) (hcall : ¬(s.cfg.strictUB = true ∧ s.callDepth = 0)) : s.pop.Inv where
  memory := h.memory
  stackPointer := by
    rw [State.pop_sp, State.pop_callDepth, sub_eq_add_neg s.callDepth, BitVec.ofInt_add, h.stackPointer,
      BitVec.sub_eq_add_neg]
    rfl
  depthBound := fun hstrict => by
    have hbound := h.depthBound hstrict
    have hne : s.callDepth ≠ 0 := fun hd => hcall ⟨hstrict, hd⟩
    rw [State.pop_callDepth]
    omega

/-- Every instruction keeps the invariant: call and return move sp and the depth together, the two stores go through
`writeMem`, and no other instruction writes a field the invariant reads. -/
theorem exec_keeps_inv {i : Instr} {s t : State} (h : exec i s = .next t) (hs : s.Inv) : t.Inv := by
  cases i with
  | ret =>
    obtain ⟨hcall, rfl⟩ := (execRet_eq_next_iff s t).mp h
    exact (hs.pop hcall).setPc _
  | call nnn =>
    obtain ⟨hroom, rfl⟩ := (execCall_eq_next_iff nnn s t).mp h
    exact (hs.push hroom s.pc).setPc _
  | storeBcd x => cases h; exact ((hs.writeMem _ _).writeMem _ _).writeMem _ _
  | storeRegisters x => cases h; exact hs.storeRegs _
  | _ => rw [exec_writesOnlyItsFields h]; exact hs.of_fields_eq rfl rfl rfl rfl

theorem execute_keeps_inv {w : Word} {s t : State} (h : execute w s = .next t) (hs : s.Inv) : t.Inv := by
  obtain ⟨i, -, hexec⟩ | ⟨-, rfl⟩ := execute_eq_next h
  · exact exec_keeps_inv hexec hs
  · exact hs

theorem step_keeps_inv {s t : State} (h : step s = .next t) (hs : s.Inv) : t.Inv := by
  obtain ⟨u, hu, rfl⟩ := (step_eq_next_iff s t).mp h
  have hfetched : s.fetch.advance.Inv := hs.of_fields_eq rfl rfl rfl rfl
  exact (execute_keeps_inv hu hfetched).tickTimers

end Sys2Proof.Machine
end

section
/-! SUPPORT. Memory as fetch and the host's loader meet it (spec/20_memory.md R61, R66, R74). -/

namespace Sys2Proof.Machine

/-! ### Fetch -/

theorem memAddr_succ (a : Word) : memAddr (a + 1) = (a.toNat + 1) % 4096 := memAddr_indexed a 1

theorem State.fetchedWord_upper (s : State) : s.fetchedWord.extractLsb' 8 8 = s.readMem s.pc :=
  BitVec.extractLsb'_append_eq_left

theorem State.fetchedWord_lower (s : State) : s.fetchedWord.extractLsb' 0 8 = s.readMem (s.pc + 1) :=
  BitVec.extractLsb'_append_eq_right

/-! ### The loader -/

theorem State.readMem_hostLoad (s : State) (a : Addr) (v : Byte) (b : Word) :
    (s.hostLoad a v).readMem b = if memAddr b = a.toNat then v else s.readMem b := by
  rw [State.hostLoad, State.readMem_writeMem, memAddr_setWidth]

theorem State.hostLoad_frame (s : State) (a : Addr) (v : Byte) :
    OnlyChanges (fun q => q = .memByte a) s (s.hostLoad a v) := by
  have h := s.writeMem_frame (a.setWidth 16) v
  rwa [BitVec.setWidth_setWidth_of_le a (by decide), BitVec.setWidth_eq] at h

theorem State.loadImage_append_singleton (s : State) (image : List Byte) (v : Byte) :
    s.loadImage (image ++ [v]) = (s.loadImage image).hostLoad (BitVec.ofNat 12 (0x200 + image.length)) v := by
  simp [State.loadImage, List.zipIdx_append]

/-- Byte `k` of an image within the loader's contract has its own address, at or above 0x200. -/
theorem memAddr_image {k : Nat} (hk : k < loaderMax) : memAddr (BitVec.ofNat 16 (0x200 + k)) = 0x200 + k := by
  have hmax : loaderMax = 3584 := rfl
  simp only [memAddr, BitVec.toNat_ofNat]
  omega

theorem toNat_imageAddr {k : Nat} (hk : k < loaderMax) : (BitVec.ofNat 12 (0x200 + k)).toNat = 0x200 + k := by
  have hmax : loaderMax = 3584 := rfl
  simp only [BitVec.toNat_ofNat]
  omega

/-- The image reads back: its last byte is the one just written, and that write misses the bytes before it. -/
theorem State.readMem_loadImage (s : State) (image : List Byte) (hlen : image.length ≤ loaderMax) (k : Nat)
    (hk : k < image.length) : (s.loadImage image).readMem (BitVec.ofNat 16 (0x200 + k)) = image[k] := by
  induction image using List.reverseRecOn with
  | nil => exact absurd hk (Nat.not_lt_zero k)
  | append_singleton image v ih =>
    rw [List.length_append, List.length_singleton] at hlen hk
    rw [State.loadImage_append_singleton, State.readMem_hostLoad, memAddr_image (by omega), toNat_imageAddr (by omega)]
    by_cases hlast : k = image.length
    · subst hlast
      simp
    · have hk' : k < image.length := by omega
      rw [if_neg (by omega), ih (by omega) hk', List.getElem_append_left hk']

theorem State.loadImage_frame (s : State) (image : List Byte) :
    OnlyChanges (fun q => ∃ k, k < image.length ∧ q = .memByte (BitVec.ofNat 12 (0x200 + k))) s (s.loadImage image) :=
  OnlyChanges.foldl _ _ s fun t e he =>
    (t.hostLoad_frame _ e.1).mono fun _ hq => ⟨e.2, List.snd_lt_of_mem_zipIdx he, hq⟩

end Sys2Proof.Machine
end

section
/-! PROOFS. The obligations of spec/20_memory.md, each from the lemmas above. -/

namespace Sys2Proof.Machine

/-- Settles O18: fetch, advance and the timer phase leave the invariant's fields alone, and the execute phase keeps it
instruction by instruction. -/
theorem stepKeepsTheInvariant : Obligations.StepKeepsTheInvariant := fun _ _ hs h => step_keeps_inv h hs

/-- Settles O51: the two bytes of the fetched word, each read after the write. -/
theorem fetchSeesTheLatestWrite : Obligations.FetchSeesTheLatestWrite := by
  intro s a v
  constructor
  · rw [State.fetchedWord_upper, State.readMem_writeMem]
    rfl
  · rw [State.fetchedWord_lower, State.readMem_writeMem, State.writeMem_pc, memAddr_succ]
    rfl

/-- Settles O54: the image reads back, and each of the loader's writes changes one byte of its range. -/
theorem loaderCopiesTheImage : Obligations.LoaderCopiesTheImage := by
  intro s image hwf
  have hlen : image.length ≤ loaderMax := of_decide_eq_true hwf
  exact ⟨s.readMem_loadImage image hlen, s.loadImage_frame image⟩

/-- Settles O17: memory is empty, and sp and the depth are both 0. -/
theorem resetMeetsTheInvariant : Obligations.ResetMeetsTheInvariant :=
  ⟨State.inv_resetWith Config.default, State.inv_hostInit⟩

end Sys2Proof.Machine
end

section
/-! SUPPORT. The opcode map of spec/30_encoding.md read off the fields of a word (R91-R97), and the encoder by it:
outside the ignored bits a word is `encode i` exactly when its fields are those of the row of `i`. -/

namespace Sys2Proof

/-- The word `w` is of the row of `i`: it has the row's family and selector, and the operands of `i` in its fields
(R91). Nothing is said of the bits that the row ignores. -/
def Instr.Matches (w : Word) : Instr → Prop
  | .clearScreen => fieldFamily w = 0x0 ∧ fieldN w = 0x0
  | .ret => fieldFamily w = 0x0 ∧ fieldN w = 0xE
  | .jump nnn => fieldFamily w = 0x1 ∧ fieldNNN w = nnn
  | .call nnn => fieldFamily w = 0x2 ∧ fieldNNN w = nnn
  | .skipEqImm x kk => fieldFamily w = 0x3 ∧ fieldX w = x ∧ fieldKK w = kk
  | .skipNeImm x kk => fieldFamily w = 0x4 ∧ fieldX w = x ∧ fieldKK w = kk
  | .skipEqReg x y => fieldFamily w = 0x5 ∧ fieldX w = x ∧ fieldY w = y
  | .loadImm x kk => fieldFamily w = 0x6 ∧ fieldX w = x ∧ fieldKK w = kk
  | .addImm x kk => fieldFamily w = 0x7 ∧ fieldX w = x ∧ fieldKK w = kk
  | .loadReg x y => fieldFamily w = 0x8 ∧ fieldX w = x ∧ fieldY w = y ∧ fieldN w = 0x0
  | .orReg x y => fieldFamily w = 0x8 ∧ fieldX w = x ∧ fieldY w = y ∧ fieldN w = 0x1
  | .andReg x y => fieldFamily w = 0x8 ∧ fieldX w = x ∧ fieldY w = y ∧ fieldN w = 0x2
  | .xorReg x y => fieldFamily w = 0x8 ∧ fieldX w = x ∧ fieldY w = y ∧ fieldN w = 0x3
  | .addReg x y => fieldFamily w = 0x8 ∧ fieldX w = x ∧ fieldY w = y ∧ fieldN w = 0x4
  | .subReg x y => fieldFamily w = 0x8 ∧ fieldX w = x ∧ fieldY w = y ∧ fieldN w = 0x5
  | .shiftRight x y => fieldFamily w = 0x8 ∧ fieldX w = x ∧ fieldY w = y ∧ fieldN w = 0x6
  | .subnReg x y => fieldFamily w = 0x8 ∧ fieldX w = x ∧ fieldY w = y ∧ fieldN w = 0x7
  | .shiftLeft x y => fieldFamily w = 0x8 ∧ fieldX w = x ∧ fieldY w = y ∧ fieldN w = 0xE
  | .skipNeReg x y => fieldFamily w = 0x9 ∧ fieldX w = x ∧ fieldY w = y
  | .loadIndex nnn => fieldFamily w = 0xA ∧ fieldNNN w = nnn
  | .jumpOffset nnn => fieldFamily w = 0xB ∧ fieldNNN w = nnn
  | .randAnd x kk => fieldFamily w = 0xC ∧ fieldX w = x ∧ fieldKK w = kk
  | .drawSprite x y n => fieldFamily w = 0xD ∧ fieldX w = x ∧ fieldY w = y ∧ fieldN w = n
  | .skipKeyPressed x => fieldFamily w = 0xE ∧ fieldX w = x ∧ fieldN w = 0xE
  | .skipKeyNotPressed x => fieldFamily w = 0xE ∧ fieldX w = x ∧ fieldN w = 0x1
  | .getDelayTimer x => fieldFamily w = 0xF ∧ fieldX w = x ∧ fieldKK w = 0x07
  | .waitKey x => fieldFamily w = 0xF ∧ fieldX w = x ∧ fieldKK w = 0x0A
  | .setDelayTimer x => fieldFamily w = 0xF ∧ fieldX w = x ∧ fieldKK w = 0x15
  | .setSoundTimer x => fieldFamily w = 0xF ∧ fieldX w = x ∧ fieldKK w = 0x18
  | .addToIndex x => fieldFamily w = 0xF ∧ fieldX w = x ∧ fieldKK w = 0x1E
  | .fontCharAddress x => fieldFamily w = 0xF ∧ fieldX w = x ∧ fieldKK w = 0x29
  | .storeBcd x => fieldFamily w = 0xF ∧ fieldX w = x ∧ fieldKK w = 0x33
  | .storeRegisters x => fieldFamily w = 0xF ∧ fieldX w = x ∧ fieldKK w = 0x55
  | .loadRegisters x => fieldFamily w = 0xF ∧ fieldX w = x ∧ fieldKK w = 0x65

/-! ### A word and the fields it is appended from -/

theorem eq_append_iff {m n : Nat} (w : BitVec (m + n)) (a : BitVec m) (b : BitVec n) :
    w = a ++ b ↔ w.extractLsb' n m = a ∧ w.extractLsb' 0 n = b := by
  constructor
  · rintro rfl
    exact ⟨BitVec.extractLsb'_append_eq_left, BitVec.extractLsb'_append_eq_right⟩
  · rintro ⟨rfl, rfl⟩
    exact BitVec.extractLsb'_append_extractLsb'.symm

/-- A field of a field is a field of the word. -/
theorem extractLsb'_extractLsb'_of_add_le {m : Nat} (w : BitVec m) {start len start' len' : Nat}
    (h : start' + len' ≤ len) :
    (w.extractLsb' start len).extractLsb' start' len' = w.extractLsb' (start + start') len' := by
  ext k hk
  have hlt : start' + k < len := by omega
  simp [hlt, Nat.add_assoc]

theorem eq_append_append_iff {l m n : Nat} (w : BitVec (l + m + n)) (a : BitVec l) (b : BitVec m) (c : BitVec n) :
    w = a ++ b ++ c ↔ w.extractLsb' (n + m) l = a ∧ w.extractLsb' n m = b ∧ w.extractLsb' 0 n = c := by
  rw [eq_append_iff, eq_append_iff, extractLsb'_extractLsb'_of_add_le w (by omega),
    extractLsb'_extractLsb'_of_add_le w (by omega), and_assoc, Nat.add_zero]

theorem eq_family_nnn_iff (w : Word) (f : Nibble) (nnn : Addr) :
    w = f ++ nnn ↔ fieldFamily w = f ∧ fieldNNN w = nnn :=
  eq_append_iff (m := 4) w f nnn

theorem eq_family_x_kk_iff (w : Word) (f x : Nibble) (kk : Byte) :
    w = f ++ x ++ kk ↔ fieldFamily w = f ∧ fieldX w = x ∧ fieldKK w = kk :=
  eq_append_append_iff (l := 4) w f x kk

theorem eq_family_x_y_n_iff (w : Word) (f x y n : Nibble) :
    w = f ++ x ++ y ++ n ↔ fieldFamily w = f ∧ fieldX w = x ∧ fieldY w = y ∧ fieldN w = n := by
  constructor
  · intro h
    obtain ⟨hfx, hy, hn⟩ := (eq_append_append_iff (l := 8) w (f ++ x) y n).mp h
    obtain ⟨hf, hx⟩ := (eq_append_iff (m := 4) (w.extractLsb' 8 8) f x).mp hfx
    rw [extractLsb'_extractLsb'_of_add_le w (by decide)] at hf hx
    exact ⟨hf, hx, hy, hn⟩
  · rintro ⟨rfl, rfl, rfl, rfl⟩
    exact word_eq_nibbles w

theorem append_append_append (f x y n : Nibble) : (f ++ x ++ (y ++ n) : Word) = f ++ x ++ y ++ n :=
  BitVec.append_assoc'

/-! ### A word with the ignored bits cleared -/

/-- Each nibble of a masked word is masked by the mask's own nibble. -/
theorem and_eq_nibbles_iff (w mask : Word) (f x y n : Nibble) :
    w &&& mask = f ++ x ++ y ++ n ↔
      fieldFamily w &&& fieldFamily mask = f ∧ fieldX w &&& fieldX mask = x ∧ fieldY w &&& fieldY mask = y ∧
        fieldN w &&& fieldN mask = n := by
  rw [eq_family_x_y_n_iff]
  simp only [fieldFamily, fieldX, fieldY, fieldN, BitVec.extractLsb'_and]

theorem and_not_0000_eq_iff (w v : Word) : w &&& ~~~(0x0000 : Word) = v ↔ w = v := by
  rw [show ~~~(0x0000 : Word) = .allOnes 16 from rfl, BitVec.and_allOnes]

/-- Families 0x5 and 0x9 ignore the low nibble (R97). -/
theorem and_not_000F_eq_iff (w : Word) (f x y : Nibble) :
    w &&& ~~~(0x000F : Word) = f ++ x ++ y ++ 0x0#4 ↔ fieldFamily w = f ∧ fieldX w = x ∧ fieldY w = y := by
  refine (and_eq_nibbles_iff w _ f x y 0x0#4).trans ?_
  change (fieldFamily w &&& .allOnes 4 = f ∧ fieldX w &&& .allOnes 4 = x ∧ fieldY w &&& .allOnes 4 = y ∧
    fieldN w &&& 0#4 = 0#4) ↔ _
  simp only [BitVec.and_allOnes, BitVec.and_zero, and_true]

/-- The key tests ignore the nibble `y` (R95). -/
theorem and_not_00F0_eq_iff (w : Word) (f x n : Nibble) :
    w &&& ~~~(0x00F0 : Word) = f ++ x ++ (0x0#4 ++ n) ↔ fieldFamily w = f ∧ fieldX w = x ∧ fieldN w = n := by
  refine (append_append_append f x 0x0#4 n ▸ and_eq_nibbles_iff w _ f x 0x0#4 n).trans ?_
  change (fieldFamily w &&& .allOnes 4 = f ∧ fieldX w &&& .allOnes 4 = x ∧ fieldY w &&& 0#4 = 0#4 ∧
    fieldN w &&& .allOnes 4 = n) ↔ _
  simp only [BitVec.and_allOnes, BitVec.and_zero, true_and]

/-- Family 0x0 reads its selector only (R93). -/
theorem and_not_0FF0_eq_iff (w : Word) (f n : Nibble) :
    w &&& ~~~(0x0FF0 : Word) = f ++ 0x0#4 ++ 0x0#4 ++ n ↔ fieldFamily w = f ∧ fieldN w = n := by
  refine (and_eq_nibbles_iff w _ f 0x0#4 0x0#4 n).trans ?_
  change (fieldFamily w &&& .allOnes 4 = f ∧ fieldX w &&& 0#4 = 0#4 ∧ fieldY w &&& 0#4 = 0#4 ∧
    fieldN w &&& .allOnes 4 = n) ↔ _
  simp only [BitVec.and_allOnes, BitVec.and_zero, true_and]

/-! ### The encoder -/

theorem and_not_ignoredBits_eq_encode_iff (w : Word) (i : Instr) :
    w &&& ~~~(ignoredBits i) = encode i ↔ i.Matches w := by
  cases i with
  | clearScreen => exact and_not_0FF0_eq_iff w 0x0 0x0
  | ret => exact and_not_0FF0_eq_iff w 0x0 0xE
  | skipEqReg x y | skipNeReg x y => exact and_not_000F_eq_iff w _ x y
  | skipKeyPressed x => exact and_not_00F0_eq_iff w 0xE x 0xE
  | skipKeyNotPressed x => exact and_not_00F0_eq_iff w 0xE x 0x1
  | jump | call | loadIndex | jumpOffset => exact (and_not_0000_eq_iff w _).trans (eq_family_nnn_iff w _ _)
  | loadReg | orReg | andReg | xorReg | addReg | subReg | shiftRight | subnReg | shiftLeft | drawSprite =>
    exact (and_not_0000_eq_iff w _).trans (eq_family_x_y_n_iff w _ _ _ _)
  | _ => exact (and_not_0000_eq_iff w _).trans (eq_family_x_kk_iff w _ _ _)

theorem and_not_eq_self {w v : Word} (h : w &&& v = 0) : w &&& ~~~v = w := by
  ext k hk
  have hbit : (w &&& v)[k] = false := by simp [h]
  simpa using hbit

theorem encode_and_ignoredBits (i : Instr) : encode i &&& ignoredBits i = 0 := by
  cases i with
  | clearScreen => exact Laws.IgnoredBits.clearScreen
  | ret => exact Laws.IgnoredBits.ret
  | skipEqReg x y => exact Laws.IgnoredBits.skipEqReg x y
  | skipNeReg x y => exact Laws.IgnoredBits.skipNeReg x y
  | skipKeyPressed x => exact Laws.IgnoredBits.skipKeyPressed x
  | skipKeyNotPressed x => exact Laws.IgnoredBits.skipKeyNotPressed x
  | _ => exact BitVec.and_zero

theorem matches_encode (i : Instr) : i.Matches (encode i) :=
  (and_not_ignoredBits_eq_encode_iff (encode i) i).mp (and_not_eq_self (encode_and_ignoredBits i))

end Sys2Proof
end

section
/-! SUPPORT. What the decoder can answer (spec/30_encoding.md R92-R98): the instruction whose row the word matches, or
none on the words that R98 lists. -/

namespace Sys2Proof

theorem nibble_cases (f : Nibble) : f = 0x0 ∨ f = 0x1 ∨ f = 0x2 ∨ f = 0x3 ∨ f = 0x4 ∨ f = 0x5 ∨ f = 0x6 ∨ f = 0x7 ∨
    f = 0x8 ∨ f = 0x9 ∨ f = 0xA ∨ f = 0xB ∨ f = 0xC ∨ f = 0xD ∨ f = 0xE ∨ f = 0xF := by
  revert f
  decide

section
variable {w : Word}

theorem decode_family0 (hf : fieldFamily w = 0x0) : decode w = decodeFamily0 w := by
  rw [decode, hf]
  rfl

theorem decode_family8 (hf : fieldFamily w = 0x8) : decode w = decodeFamily8 w := by
  rw [decode, hf]
  rfl

theorem decode_familyE (hf : fieldFamily w = 0xE) : decode w = decodeFamilyE w := by
  rw [decode, hf]
  rfl

theorem decode_familyF (hf : fieldFamily w = 0xF) : decode w = decodeFamilyF w := by
  rw [decode, hf]
  rfl

end

/-- The order in which the decoder tests families and selectors does not matter: no word is of two rows (R99). -/
theorem decode_of_matches {w : Word} {i : Instr} (h : i.Matches w) : decode w = .ok i := by
  cases i with
  | clearScreen | ret =>
    obtain ⟨hf, hn⟩ := h
    rw [decode_family0 hf, decodeFamily0, hn]
    rfl
  | jump | call | loadIndex | jumpOffset =>
    obtain ⟨hf, rfl⟩ := h
    rw [decode, hf]
    rfl
  | skipEqImm | skipNeImm | skipEqReg | loadImm | addImm | skipNeReg | randAnd =>
    obtain ⟨hf, rfl, rfl⟩ := h
    rw [decode, hf]
    rfl
  | loadReg | orReg | andReg | xorReg | addReg | subReg | shiftRight | subnReg | shiftLeft =>
    obtain ⟨hf, rfl, rfl, hn⟩ := h
    rw [decode_family8 hf, decodeFamily8, hn]
    rfl
  | drawSprite =>
    obtain ⟨hf, rfl, rfl, rfl⟩ := h
    rw [decode, hf]
    rfl
  | skipKeyPressed | skipKeyNotPressed =>
    obtain ⟨hf, rfl, hn⟩ := h
    rw [decode_familyE hf, decodeFamilyE, hn]
    rfl
  | _ =>
    obtain ⟨hf, rfl, hkk⟩ := h
    rw [decode_familyF hf, decodeFamilyF, hkk]
    rfl

/-- The first level of the dispatch (R92): a family with a selector goes to its own decoder, and every word of another
family is of the family's one row. -/
theorem decode_cases (w : Word) :
    (fieldFamily w ∉ [0x0, 0x8, 0xE, 0xF] ∧ ∃ i : Instr, i.Matches w) ∨
      (fieldFamily w = 0x0 ∧ decode w = decodeFamily0 w) ∨ (fieldFamily w = 0x8 ∧ decode w = decodeFamily8 w) ∨
      (fieldFamily w = 0xE ∧ decode w = decodeFamilyE w) ∨ (fieldFamily w = 0xF ∧ decode w = decodeFamilyF w) := by
  rcases nibble_cases (fieldFamily w) with hf | hf | hf | hf | hf | hf | hf | hf | hf | hf | hf | hf | hf | hf | hf | hf
  · exact .inr (.inl ⟨hf, decode_family0 hf⟩)
  · exact .inl ⟨by simp [hf], .jump (fieldNNN w), hf, rfl⟩
  · exact .inl ⟨by simp [hf], .call (fieldNNN w), hf, rfl⟩
  · exact .inl ⟨by simp [hf], .skipEqImm (fieldX w) (fieldKK w), hf, rfl, rfl⟩
  · exact .inl ⟨by simp [hf], .skipNeImm (fieldX w) (fieldKK w), hf, rfl, rfl⟩
  · exact .inl ⟨by simp [hf], .skipEqReg (fieldX w) (fieldY w), hf, rfl, rfl⟩
  · exact .inl ⟨by simp [hf], .loadImm (fieldX w) (fieldKK w), hf, rfl, rfl⟩
  · exact .inl ⟨by simp [hf], .addImm (fieldX w) (fieldKK w), hf, rfl, rfl⟩
  · exact .inr (.inr (.inl ⟨hf, decode_family8 hf⟩))
  · exact .inl ⟨by simp [hf], .skipNeReg (fieldX w) (fieldY w), hf, rfl, rfl⟩
  · exact .inl ⟨by simp [hf], .loadIndex (fieldNNN w), hf, rfl⟩
  · exact .inl ⟨by simp [hf], .jumpOffset (fieldNNN w), hf, rfl⟩
  · exact .inl ⟨by simp [hf], .randAnd (fieldX w) (fieldKK w), hf, rfl, rfl⟩
  · exact .inl ⟨by simp [hf], .drawSprite (fieldX w) (fieldY w) (fieldN w), hf, rfl, rfl, rfl⟩
  · exact .inr (.inr (.inr (.inl ⟨hf, decode_familyE hf⟩)))
  · exact .inr (.inr (.inr (.inr ⟨hf, decode_familyF hf⟩)))

/-! ### The decoders of the families with a selector (R93-R96) -/

section
variable {w : Word} {i : Instr}

theorem matches_of_decodeFamily0 (hf : fieldFamily w = 0x0) (h : decodeFamily0 w = .ok i) : i.Matches w := by
  unfold decodeFamily0 at h
  split_ifs at h <;> cases h <;> exact ⟨hf, ‹_›⟩

theorem matches_of_decodeFamily8 (hf : fieldFamily w = 0x8) (h : decodeFamily8 w = .ok i) : i.Matches w := by
  unfold decodeFamily8 at h
  split_ifs at h <;> cases h <;> exact ⟨hf, rfl, rfl, ‹_›⟩

theorem matches_of_decodeFamilyE (hf : fieldFamily w = 0xE) (h : decodeFamilyE w = .ok i) : i.Matches w := by
  unfold decodeFamilyE at h
  split_ifs at h <;> cases h <;> exact ⟨hf, rfl, ‹_›⟩

theorem matches_of_decodeFamilyF (hf : fieldFamily w = 0xF) (h : decodeFamilyF w = .ok i) : i.Matches w := by
  unfold decodeFamilyF at h
  split_ifs at h <;> cases h <;> exact ⟨hf, rfl, ‹_›⟩

end

theorem decodeFamily0_eq_error_iff (w : Word) : (∃ e, decodeFamily0 w = .error e) ↔ fieldN w ∉ [0x0#4, 0xE#4] := by
  unfold decodeFamily0
  split_ifs <;> simp_all

theorem decodeFamily8_eq_error_iff (w : Word) : (∃ e, decodeFamily8 w = .error e) ↔
    fieldN w ∉ [0x0#4, 0x1#4, 0x2#4, 0x3#4, 0x4#4, 0x5#4, 0x6#4, 0x7#4, 0xE#4] := by
  unfold decodeFamily8
  split_ifs <;> simp_all

theorem decodeFamilyE_eq_error_iff (w : Word) : (∃ e, decodeFamilyE w = .error e) ↔ fieldN w ∉ [0xE#4, 0x1#4] := by
  unfold decodeFamilyE
  split_ifs <;> simp_all

theorem decodeFamilyF_eq_error_iff (w : Word) : (∃ e, decodeFamilyF w = .error e) ↔
    fieldKK w ∉ [0x07#8, 0x0A#8, 0x15#8, 0x18#8, 0x1E#8, 0x29#8, 0x33#8, 0x55#8, 0x65#8] := by
  unfold decodeFamilyF
  split_ifs <;> simp_all

/-! ### The whole decoder -/

theorem decode_eq_ok_iff (w : Word) (i : Instr) : decode w = .ok i ↔ i.Matches w := by
  refine ⟨fun h => ?_, decode_of_matches⟩
  obtain ⟨-, j, hj⟩ | ⟨hf, hd⟩ | ⟨hf, hd⟩ | ⟨hf, hd⟩ | ⟨hf, hd⟩ := decode_cases w
  · cases (decode_of_matches hj).symm.trans h
    exact hj
  · exact matches_of_decodeFamily0 hf (hd.symm.trans h)
  · exact matches_of_decodeFamily8 hf (hd.symm.trans h)
  · exact matches_of_decodeFamilyE hf (hd.symm.trans h)
  · exact matches_of_decodeFamilyF hf (hd.symm.trans h)

/-! ### The rows as masks and fixed bits -/

section
variable {fixed : Word} {row : Word → Instr}

theorem decodesTo_of_family (h : ∀ w, fieldFamily w = fieldFamily fixed → (row w).Matches w) :
    DecodesTo 0xF000 fixed row :=
  fun w hw => decode_of_matches (h w (fieldFamily_of_mask hw))

theorem decodesTo_of_family_n
    (h : ∀ w, fieldFamily w = fieldFamily fixed → fieldN w = fieldN fixed → (row w).Matches w) :
    DecodesTo 0xF00F fixed row :=
  fun w hw => decode_of_matches ((fieldFamily_fieldN_of_mask hw).elim (h w))

theorem decodesTo_of_family_kk
    (h : ∀ w, fieldFamily w = fieldFamily fixed → fieldKK w = fieldKK fixed → (row w).Matches w) :
    DecodesTo 0xF0FF fixed row :=
  fun w hw => decode_of_matches ((fieldFamily_fieldKK_of_mask hw).elim (h w))

end

/-! ### Bytes (R90) -/

theorem wordOfBytes_upper_lower (w : Word) : wordOfBytes (w.extractLsb' 8 8) (w.extractLsb' 0 8) = w :=
  BitVec.extractLsb'_append_extractLsb' (w := 8)

theorem decodeBytes_bytesOfWord {w : Word} {i : Instr} (h : decode w = .ok i) (rest : List Byte) :
    decodeBytes (bytesOfWord w ++ rest) = .ok (i, rest) := by
  simp [bytesOfWord, decodeBytes, wordOfBytes_upper_lower, h]

end Sys2Proof
end

section
/-! SUPPORT. A Step by the word it fetches (spec/30_encoding.md R100-R104): on a word that decodes and on an undefined
one, and the timer phase's decrement. -/

namespace Sys2Proof.Machine

theorem execute_keeps_ir {w : Word} {s t : State} (h : execute w s = .next t) : t.ir = s.ir := by
  obtain ⟨i, -, hexec⟩ | ⟨-, rfl⟩ := execute_eq_next h
  · obtain ⟨-, -, hir, -⟩ := exec_keeps_inputs hexec
    exact hir
  · rfl

theorem ir_of_step {s t : State} (h : step s = .next t) : t.ir = s.fetchedWord := by
  obtain ⟨u, hu, rfl⟩ := (step_eq_next_iff s t).mp h
  rw [State.tickTimers_eq]
  exact execute_keeps_ir hu

theorem step_of_decode {s : State} {i : Instr} (h : decode s.fetchedWord = .ok i) :
    step s = mapNext State.tickTimers (exec i s.fetch.advance) := by
  rw [step_eq_mapNext, s.fetch_ir, execute_of_decode _ h]

theorem step_of_undefined {s : State} {e : Undefined} (h : decode s.fetchedWord = .error e) :
    step s = .next s.fetch.advance.tickTimers := by
  rw [step_eq_mapNext, s.fetch_ir, execute_of_undefined _ h, mapNext]

/-- The decrement of a timer (60_exceptions.md R250, R251) by whether it has run out. -/
theorem decrement_eq (v : Byte) : (if v.toNat > 0 then v - 1 else v) = if v = 0 then 0 else v - 1 := by
  by_cases hv : v = 0
  · subst hv
    rfl
  · have hpos : v.toNat > 0 := by bv_omega
    rw [if_neg hv, if_pos hpos]

theorem toNat_decrement (v : Byte) : (if v.toNat > 0 then v - 1 else v).toNat = v.toNat - 1 := by
  split
  · bv_omega
  · omega

/-- Fetch, advance and the timer phase, without an execute phase between them. -/
theorem State.fetch_advance_tickTimers_frame (s : State) :
    OnlyChanges (fun q => q = .pc ∨ q = .ir ∨ q = .DT ∨ q = .ST ∨ q = .tone) s s.fetch.advance.tickTimers :=
  ((s.fetch_frame.mono fun _ h => .inr (.inl h)).trans (s.fetch.advance_frame.mono fun _ h => .inl h)).trans
    (s.fetch.advance.tickTimers_frame.mono fun _ h => .inr (.inr h))

end Sys2Proof.Machine
end

section
/-! PROOFS. The obligations of spec/30_encoding.md, each from the lemmas above. -/

namespace Sys2Proof.Machine

/-- Settles O3: both sides say that the word's fields are those of the row of `i`. -/
theorem decodeIffEncodeOutsideIgnoredBits : Obligations.DecodeIffEncodeOutsideIgnoredBits :=
  fun w i => (decode_eq_ok_iff w i).trans (and_not_ignoredBits_eq_encode_iff w i).symm

/-- Settles O4: the word of `i` is of the row of `i`, and its two bytes make up the word. -/
theorem decodeOfEncodeIsTheInstruction : Obligations.DecodeOfEncodeIsTheInstruction := by
  intro i
  have hdecode : decode (encode i) = .ok i := decode_of_matches (matches_encode i)
  exact ⟨hdecode, decodeBytes_bytesOfWord hdecode⟩

/-- Settles O1: the fixed bits of a row are its family and its selector, and the operands are the fields themselves. -/
theorem decodeFollowsOpcodeMap : Obligations.DecodeFollowsOpcodeMap :=
  ⟨-- family 0x0
    decodesTo_of_family_n fun _ hf hn => ⟨hf, hn⟩, decodesTo_of_family_n fun _ hf hn => ⟨hf, hn⟩,
    -- families 0x1, 0x2
    decodesTo_of_family fun _ hf => ⟨hf, rfl⟩,
    decodesTo_of_family fun _ hf => ⟨hf, rfl⟩,
    -- families 0x3 to 0x7
    decodesTo_of_family fun _ hf => ⟨hf, rfl, rfl⟩,
    decodesTo_of_family fun _ hf => ⟨hf, rfl, rfl⟩,
    decodesTo_of_family fun _ hf => ⟨hf, rfl, rfl⟩,
    decodesTo_of_family fun _ hf => ⟨hf, rfl, rfl⟩,
    decodesTo_of_family fun _ hf => ⟨hf, rfl, rfl⟩,
    -- family 0x8
    decodesTo_of_family_n fun _ hf hn => ⟨hf, rfl, rfl, hn⟩,
    decodesTo_of_family_n fun _ hf hn => ⟨hf, rfl, rfl, hn⟩,
    decodesTo_of_family_n fun _ hf hn => ⟨hf, rfl, rfl, hn⟩,
    decodesTo_of_family_n fun _ hf hn => ⟨hf, rfl, rfl, hn⟩,
    decodesTo_of_family_n fun _ hf hn => ⟨hf, rfl, rfl, hn⟩,
    decodesTo_of_family_n fun _ hf hn => ⟨hf, rfl, rfl, hn⟩,
    decodesTo_of_family_n fun _ hf hn => ⟨hf, rfl, rfl, hn⟩,
    decodesTo_of_family_n fun _ hf hn => ⟨hf, rfl, rfl, hn⟩,
    decodesTo_of_family_n fun _ hf hn => ⟨hf, rfl, rfl, hn⟩,
    -- family 0x9
    decodesTo_of_family fun _ hf => ⟨hf, rfl, rfl⟩,
    -- families 0xA, 0xB
    decodesTo_of_family fun _ hf => ⟨hf, rfl⟩,
    decodesTo_of_family fun _ hf => ⟨hf, rfl⟩,
    -- family 0xC
    decodesTo_of_family fun _ hf => ⟨hf, rfl, rfl⟩,
    -- family 0xD
    decodesTo_of_family fun _ hf => ⟨hf, rfl, rfl, rfl⟩,
    -- family 0xE
    decodesTo_of_family_n fun _ hf hn => ⟨hf, rfl, hn⟩,
    decodesTo_of_family_n fun _ hf hn => ⟨hf, rfl, hn⟩,
    -- family 0xF
    decodesTo_of_family_kk fun _ hf hkk => ⟨hf, rfl, hkk⟩,
    decodesTo_of_family_kk fun _ hf hkk => ⟨hf, rfl, hkk⟩,
    decodesTo_of_family_kk fun _ hf hkk => ⟨hf, rfl, hkk⟩,
    decodesTo_of_family_kk fun _ hf hkk => ⟨hf, rfl, hkk⟩,
    decodesTo_of_family_kk fun _ hf hkk => ⟨hf, rfl, hkk⟩,
    decodesTo_of_family_kk fun _ hf hkk => ⟨hf, rfl, hkk⟩,
    decodesTo_of_family_kk fun _ hf hkk => ⟨hf, rfl, hkk⟩,
    decodesTo_of_family_kk fun _ hf hkk => ⟨hf, rfl, hkk⟩,
    decodesTo_of_family_kk fun _ hf hkk => ⟨hf, rfl, hkk⟩⟩

/-- Settles O2: only a family with a selector has undefined words, and there the selector decides. -/
theorem undefinedWordsAreExactlyR98 : Obligations.UndefinedWordsAreExactlyR98 := by
  intro w
  change (∃ e, decode w = .error e) ↔ (fieldFamily w = 0x0#4 ∧ fieldN w ∉ _) ∨ (fieldFamily w = 0x8#4 ∧ fieldN w ∉ _) ∨
    (fieldFamily w = 0xE#4 ∧ fieldN w ∉ _) ∨ (fieldFamily w = 0xF#4 ∧ fieldKK w ∉ _)
  obtain ⟨hf, i, hi⟩ | ⟨hf, hd⟩ | ⟨hf, hd⟩ | ⟨hf, hd⟩ | ⟨hf, hd⟩ := decode_cases w
  · simp_all [decode_of_matches hi]
  · simp [hd, hf, decodeFamily0_eq_error_iff]
  · simp [hd, hf, decodeFamily8_eq_error_iff]
  · simp [hd, hf, decodeFamilyE_eq_error_iff]
  · simp [hd, hf, decodeFamilyF_eq_error_iff]

/-- Settles O8: fetch is the read of the word, and neither the execute phase nor the timer phase writes ir. -/
theorem fetchReadsBigEndianWordAtPc : Obligations.FetchReadsBigEndianWordAtPc :=
  fun s => ⟨rfl, s.fetch_frame, fun _ h => ir_of_step h⟩

/-- Settles O10: the Step is fetch, advance and the timer phase. -/
theorem undefinedWordIsANoOp : Obligations.UndefinedWordIsANoOp := by
  intro s e h
  refine ⟨_, step_of_undefined h, ?_, ?_, ?_, ?_, s.fetch_advance_tickTimers_frame⟩ <;> rw [State.tickTimers_eq]
  · rfl
  · exact toNat_decrement s.DT
  · exact toNat_decrement s.ST
  · exact decide_eq_true_iff

/-- Settles O5: the decoder run on each word. -/
theorem writtenWordsDecode : Obligations.WrittenWordsDecode :=
  ⟨rfl, rfl, rfl, rfl, rfl, rfl, rfl, rfl, rfl, rfl, rfl, rfl, rfl, rfl, rfl⟩

/-- Settles O9: a next state of the instruction gets the timer phase, a stop of it is the Step's. -/
theorem stepRunsTheDecodedInstruction : Obligations.StepRunsTheDecodedInstruction := by
  intro s i h
  refine (step_of_decode h).trans ?_
  change _ = match exec i s.fetch.advance with | .next t => _ | .fault f => _ | .refused r => _
  cases exec i s.fetch.advance with
  | next t =>
    simp only [mapNext, State.tickTimers_eq, decrement_eq]
    rfl
  | fault f => rfl
  | refused r => rfl

end Sys2Proof.Machine
end

section
/-! SUPPORT. Family 0x0 in the execute phase (spec/40_family0_system.md): how clear-screen and return end, and what return
changes. -/

namespace Sys2Proof.Machine

theorem exec_clearScreen (s : State) : exec .clearScreen s = .next s.clearPixels := rfl

theorem exec_ret_of_defined {s : State} (h : ¬(s.cfg.strictUB = true ∧ s.callDepth = 0)) :
    exec .ret s = .next (s.pop.setPc (s.pop.stackSlot s.pop.sp)) :=
  (execRet_eq_next_iff s _).mpr ⟨h, rfl⟩

theorem exec_ret_of_underflow {s : State} (hstrict : s.cfg.strictUB = true) (hdepth : s.callDepth = 0) :
    exec .ret s = .fault .stackUnderflow :=
  if_pos ⟨hstrict, hdepth⟩

theorem State.pop_setPc_frame (s : State) (v : Word) :
    OnlyChanges (fun q => q = .sp ∨ q = .pc ∨ q = .callDepth) s (s.pop.setPc v) :=
  (s.pop_frame.mono fun _ h => h.imp_right .inr).trans ((s.pop.setPc_frame v).mono fun _ h => .inr (.inl h))

end Sys2Proof.Machine
end

section
/-! PROOFS. The obligations of spec/40_family0_system.md, each from the lemmas above. -/

namespace Sys2Proof.Machine

/-- Settles O23: the row is family 0x0 with selector 0x0 (R93), and the next state is the one with the pixels cleared. -/
theorem clearScreenTurnsEveryPixelOff : Obligations.ClearScreenTurnsEveryPixelOff :=
  ⟨decodesTo_of_family_n fun _ hf hn => ⟨hf, hn⟩,
    fun s => ⟨s.clearPixels, exec_clearScreen s, s.pixel_clearPixels, s.clearPixels_frame⟩⟩

/-- Settles O24: the next state is the popped one with pc set to the slot that its sp names; the pop itself writes no
slot. -/
theorem returnPopsThePc : Obligations.ReturnPopsThePc := by
  intro s
  constructor
  · intro hdefined
    exact ⟨_, exec_ret_of_defined hdefined, s.pop_sp, s.pop_stackSlot _, s.pop_callDepth, s.pop_setPc_frame _⟩
  · exact exec_ret_of_underflow

end Sys2Proof.Machine
end

section
/-! SUPPORT. Families 0x1 to 0x7 and skip-ne-reg in the execute phase (spec/41_families1to7.md, 43_families9toD.md R180): how
each ends, where pc is then, what a call and the return from it change, and a Step at a jump to its own address. -/

namespace Sys2Proof.Machine

section
variable (s : State) (x y : Nibble) (kk : Byte) (nnn : Addr)

theorem exec_jump : exec (.jump nnn) s = .next (s.setPc (nnn.setWidth 16)) := rfl
theorem exec_skipEqImm : exec (.skipEqImm x kk) s = .next (s.skipIf (s.reg x == kk)) := rfl
theorem exec_skipNeImm : exec (.skipNeImm x kk) s = .next (s.skipIf (s.reg x != kk)) := rfl
theorem exec_skipEqReg : exec (.skipEqReg x y) s = .next (s.skipIf (s.reg x == s.reg y)) := rfl
theorem exec_skipNeReg : exec (.skipNeReg x y) s = .next (s.skipIf (s.reg x != s.reg y)) := rfl
theorem exec_loadImm : exec (.loadImm x kk) s = .next (s.setReg x kk) := rfl
theorem exec_addImm : exec (.addImm x kk) s = .next (s.setReg x (aluAdd (s.reg x) kk)) := rfl

theorem exec_call_of_defined (h : ¬(s.cfg.strictUB = true ∧ s.callDepth = 16)) :
    exec (.call nnn) s = .next ((s.push s.pc).setPc (nnn.setWidth 16)) :=
  (execCall_eq_next_iff nnn s _).mpr ⟨h, rfl⟩

theorem exec_call_of_overflow (hstrict : s.cfg.strictUB = true) (hdepth : s.callDepth = 16) :
    exec (.call nnn) s = .fault .stackOverflow :=
  if_pos ⟨hstrict, hdepth⟩

/-- An address field loses nothing at the width of pc (R140). -/
theorem toNat_setWidth_addr : (nnn.setWidth 16).toNat = nnn.toNat :=
  BitVec.toNat_setWidth_of_le (by decide)

theorem State.reg_setReg_same (v : Byte) : (s.setReg x v).reg x = v := by simp

theorem toNat_aluAdd (a b : Byte) : (aluAdd a b).toNat = (a.toNat + b.toNat) % 256 := BitVec.toNat_ofNat _ _

/-! ### Skips (R142-R144, R180) -/

theorem State.skipIf_beq_pc (a b : Byte) : (s.skipIf (a == b)).pc = if a = b then s.pc + 2 else s.pc := by
  simp

theorem State.skipIf_bne_pc (a b : Byte) : (s.skipIf (a != b)).pc = if a = b then s.pc else s.pc + 2 := by
  simp

/-! ### Call, and return after it (R141, R131) -/

theorem State.push_setPc_frame (v w : Word) :
    OnlyChanges (fun q => q = .stackSlot s.sp ∨ q = .sp ∨ q = .pc ∨ q = .callDepth) s ((s.push v).setPc w) :=
  ((s.push_frame v).mono fun _ h => h.imp_right (.imp_right .inr)).trans
    (((s.push v).setPc_frame w).mono fun _ h => .inr (.inr (.inl h)))

end

/-- The pushed word is on top of the stack, whatever pc has become since. -/
theorem State.stackSlot_top_of_push (s : State) (v w : Word) :
    ((s.push v).setPc w).pop.stackSlot ((s.push v).setPc w).pop.sp = v := by
  simp

/-- Popping what was pushed brings sp, the ghost call depth and pc back, so only the slot is left changed. -/
theorem State.push_pop_frame (s : State) (v w : Word) :
    OnlyChanges (fun q => q = .stackSlot s.sp) s (((s.push v).setPc w).pop.setPc s.pc) := by
  intro q hq
  cases q with
  | stackSlot j =>
    have hj : j ≠ s.sp := fun h => hq (congrArg Part.stackSlot h)
    simp [Part.same, hj]
  | _ => simp [Part.same]

/-- Under STRICT_UB the depth is not negative, so a return after a call cannot underflow (D21). -/
theorem State.Inv.push_callDepth_ne_zero {s : State} (h : s.Inv) (v : Word) :
    ¬((s.push v).cfg.strictUB = true ∧ (s.push v).callDepth = 0) := by
  rintro ⟨hstrict, hdepth⟩
  obtain ⟨hnonneg, -⟩ := h.depthBound hstrict
  rw [s.push_callDepth] at hdepth
  omega

/-- A return undoes the push, from wherever pc has gone since. -/
theorem exec_ret_push {s : State} (hs : s.Inv) (v w : Word) :
    exec .ret ((s.push v).setPc w) = .next (((s.push v).setPc w).pop.setPc v) := by
  rw [exec_ret_of_defined (s := (s.push v).setPc w) (hs.push_callDepth_ne_zero v), s.stackSlot_top_of_push]

/-! ### A jump to its own address (R140) -/

/-- The advance is undone by the jump: the Step is the fetch and the timer phase. -/
theorem step_of_selfJump {s : State} {nnn : Addr} (hpc : s.pc = nnn.setWidth 16)
    (hdecode : decode s.fetchedWord = .ok (.jump nnn)) : step s = .next s.fetch.tickTimers := by
  have hback : s.fetch.advance.setPc s.pc = s.fetch := rfl
  rw [step_of_decode hdecode, exec_jump, ← hpc, hback, mapNext]

theorem State.fetch_tickTimers_pc (s : State) : s.fetch.tickTimers.pc = s.pc := by
  rw [State.tickTimers_eq, s.fetch_pc]

theorem State.fetch_tickTimers_fetchedWord (s : State) : s.fetch.tickTimers.fetchedWord = s.fetchedWord := by
  rw [State.tickTimers_eq]
  rfl

end Sys2Proof.Machine
end

section
/-! PROOFS. The obligations of spec/41_families1to7.md, each from the lemmas above. -/

namespace Sys2Proof.Machine

/-- Settles O25: jump is one write of pc, and a Step at a self-jump is the fetch and the timer phase, which leave pc and
memory. -/
theorem jumpSetsPc : Obligations.JumpSetsPc := by
  refine ⟨decodesTo_of_family fun _ hf => ⟨hf, rfl⟩, fun nnn s => ?_, fun s nnn hpc hdecode => ?_⟩
  · exact ⟨_, exec_jump s nnn, toNat_setWidth_addr nnn, s.setPc_frame _⟩
  · exact ⟨_, step_of_selfJump hpc hdecode, s.fetch_tickTimers_pc, s.fetch_tickTimers_fetchedWord⟩

/-- Settles O27: the call's next state is the pushed one, and return pops exactly that push. -/
theorem returnAfterCallComesBack : Obligations.ReturnAfterCallComesBack := by
  intro nnn s t w hs hcall
  obtain ⟨-, rfl⟩ := (execCall_eq_next_iff nnn s t).mp hcall
  refine ⟨_, exec_ret_push hs s.pc w, State.setPc_pc _ _, ?_, ?_, s.push_pop_frame s.pc w⟩
  · exact BitVec.add_sub_cancel s.sp 1
  · exact Int.add_sub_cancel s.callDepth 1

/-- Settles O26: the next state is the pushed one with pc set to nnn. -/
theorem callPushesThePc : Obligations.CallPushesThePc := by
  intro nnn s
  constructor
  · intro hdefined
    have hslot : (s.push s.pc).stackSlot s.sp = s.pc := by simp
    exact ⟨_, exec_call_of_defined s nnn hdefined, hslot, s.push_sp s.pc, toNat_setWidth_addr nnn,
      s.push_callDepth s.pc, s.push_setPc_frame s.pc _⟩
  · exact exec_call_of_overflow s nnn

/-- Settles O28: both are skips on the comparison of reg[x] with kk. -/
theorem skipImmComparesRegisterWithByte : Obligations.SkipImmComparesRegisterWithByte :=
  ⟨decodesTo_of_family fun _ hf => ⟨hf, rfl, rfl⟩, decodesTo_of_family fun _ hf => ⟨hf, rfl, rfl⟩,
    fun x kk s =>
      ⟨⟨_, exec_skipEqImm s x kk, s.skipIf_beq_pc (s.reg x) kk, s.skipIf_frame _⟩,
        ⟨_, exec_skipNeImm s x kk, s.skipIf_bne_pc (s.reg x) kk, s.skipIf_frame _⟩⟩⟩

/-- Settles O29: the rows fix the family only, so the low nibble is free; both are skips on the comparison of the two
registers. -/
theorem skipRegComparesRegisters : Obligations.SkipRegComparesRegisters :=
  ⟨decodesTo_of_family fun _ hf => ⟨hf, rfl, rfl⟩, decodesTo_of_family fun _ hf => ⟨hf, rfl, rfl⟩,
    fun x y s =>
      ⟨⟨_, exec_skipEqReg s x y, s.skipIf_beq_pc (s.reg x) (s.reg y), s.skipIf_frame _⟩,
        ⟨_, exec_skipNeReg s x y, s.skipIf_bne_pc (s.reg x) (s.reg y), s.skipIf_frame _⟩⟩⟩

/-- Settles O32: each is one write of reg[x]. -/
theorem immediateLoadAndAdd : Obligations.ImmediateLoadAndAdd := by
  refine ⟨decodesTo_of_family fun _ hf => ⟨hf, rfl, rfl⟩, decodesTo_of_family fun _ hf => ⟨hf, rfl, rfl⟩,
    fun x kk s => ⟨?_, ?_⟩⟩
  · exact ⟨_, exec_loadImm s x kk, s.reg_setReg_same x kk, s.setReg_frame x _⟩
  · have hreg : ((s.setReg x (aluAdd (s.reg x) kk)).reg x).toNat = ((s.reg x).toNat + kk.toNat) % 256 := by
      rw [s.reg_setReg_same, toNat_aluAdd]
    exact ⟨_, exec_addImm s x kk, hreg, s.setReg_frame x _⟩

end Sys2Proof.Machine
end

section
/-! SUPPORT. Family 0x8 in the execute phase (spec/42_family8_alu.md): how each instruction ends, what a flag write followed
by the destination write leaves and changes, and the ALU's results on operands read after the flag write (R161, D3). -/

namespace Sys2Proof.Machine

/-! ### Flags and results as numbers (R160) -/

theorem flagByte_carryFlag (a b : Byte) : flagByte (carryFlag a b) = if a.toNat + b.toNat > 255 then 1 else 0 := by
  simp [flagByte, carryFlag]

theorem flagByte_noBorrowFlag (a b : Byte) : flagByte (noBorrowFlag a b) = if a.toNat > b.toNat then 1 else 0 := by
  simp [flagByte, noBorrowFlag]

theorem toNat_flagByte (b : Bool) : (flagByte b).toNat = b.toNat := by cases b <;> rfl

/-- The bit that shift-right shifts out is the remainder of the halving (R169). -/
theorem toNat_flagByte_shiftRightFlag (a : Byte) : (flagByte (shiftRightFlag a)).toNat = a.toNat % 2 := by
  have hbit : (a.toNat.testBit 0).toNat = a.toNat / 2 ^ 0 % 2 := Nat.toNat_testBit a.toNat 0
  rw [toNat_flagByte, shiftRightFlag, BitVec.getLsbD, hbit, Nat.pow_zero, Nat.div_one]

/-- The bit that shift-left shifts out is the top one, so nothing is left above it (R171). -/
theorem toNat_flagByte_shiftLeftFlag (a : Byte) : (flagByte (shiftLeftFlag a)).toNat = a.toNat / 128 := by
  have hbit : (a.toNat.testBit 7).toNat = a.toNat / 2 ^ 7 % 2 := Nat.toNat_testBit a.toNat 7
  rw [toNat_flagByte, shiftLeftFlag, BitVec.getLsbD, hbit]
  omega

theorem toNat_aluShr (a : Byte) : (aluShr a).toNat = a.toNat / 2 := by
  rw [aluShr_eq, BitVec.toNat_ushiftRight, Nat.shiftRight_eq_div_pow, Nat.pow_one]

theorem toNat_aluShl (a : Byte) : (aluShl a).toNat = 2 * a.toNat % 256 := BitVec.toNat_ofNat _ _

/-- A flag has no bit above bit 0, so shifting it right leaves nothing. -/
theorem aluShr_flagByte (b : Bool) : aluShr (flagByte b) = 0 := by cases b <;> decide

/-- A flag shifted left loses nothing. -/
theorem toNat_aluShl_flagByte (b : Bool) : (aluShl (flagByte b)).toNat = 2 * (flagByte b).toNat := by
  cases b <;> decide

section
variable (s : State) (x y : Nibble)

/-! ### A flag write, then the destination -/

theorem State.reg_setFlag_same (f : Bool) : (s.setFlag f).reg 15 = flagByte f := s.reg_setReg_same flagReg _

/-- The flag stands where the destination is not reg[15]. -/
theorem State.reg_flag_setFlag_setReg {x : Nibble} (f : Bool) (v : Byte) (hx : x ≠ 15) :
    ((s.setFlag f).setReg x v).reg 15 = flagByte f := by
  rw [State.reg_setReg_of_ne _ v hx.symm, s.reg_setFlag_same]

theorem State.setFlag_setReg_frame (f : Bool) (v : Byte) :
    OnlyChanges (fun q => q = .reg x ∨ q = .reg 15) s ((s.setFlag f).setReg x v) :=
  ((s.setFlag_frame f).mono fun _ h => .inr h).trans (((s.setFlag f).setReg_frame x v).mono fun _ h => .inl h)

/-! ### The difference of the two subtractions (R168, R170) -/

/-- `reg[a] - reg[b]` as sub-reg and subn-reg compute it: the flag of the old values stands in reg[15] when the operands
are read (D3). -/
def State.differenceAfterFlag (a b : Nibble) : Byte :=
  aluSub ((s.setFlag (noBorrowFlag (s.reg a) (s.reg b))).reg a) ((s.setFlag (noBorrowFlag (s.reg a) (s.reg b))).reg b)

theorem State.differenceAfterFlag_of_ne {a b : Nibble} (ha : a ≠ 15) (hb : b ≠ 15) :
    s.differenceAfterFlag a b = s.reg a - s.reg b := by
  rw [State.differenceAfterFlag, s.reg_setFlag_of_ne _ ha, s.reg_setFlag_of_ne _ hb, aluSub_eq]

/-- With reg[15] as the subtrahend, the flag is subtracted. -/
theorem State.differenceAfterFlag_subtrahend_flag {a : Nibble} (ha : a ≠ 15) :
    s.differenceAfterFlag a 15 = s.reg a - (if (s.reg a).toNat > (s.reg 15).toNat then 1 else 0) := by
  rw [State.differenceAfterFlag, s.reg_setFlag_of_ne _ ha, s.reg_setFlag_same, aluSub_eq, flagByte_noBorrowFlag]

/-- With reg[15] as the minuend, it is subtracted from the flag. -/
theorem State.differenceAfterFlag_minuend_flag {b : Nibble} (hb : b ≠ 15) :
    s.differenceAfterFlag 15 b = (if (s.reg 15).toNat > (s.reg b).toNat then 1 else 0) - s.reg b := by
  rw [State.differenceAfterFlag, s.reg_setFlag_of_ne _ hb, s.reg_setFlag_same, aluSub_eq, flagByte_noBorrowFlag]

theorem State.differenceAfterFlag_self (a : Nibble) : s.differenceAfterFlag a a = 0 := by
  rw [State.differenceAfterFlag, aluSub_eq, BitVec.sub_self]
  rfl

/-! ### How each instruction ends -/

theorem exec_loadReg : exec (.loadReg x y) s = .next (s.setReg x (s.reg y)) := rfl
theorem exec_orReg : exec (.orReg x y) s = .next (s.setReg x (s.reg x ||| s.reg y)) := rfl
theorem exec_andReg : exec (.andReg x y) s = .next (s.setReg x (s.reg x &&& s.reg y)) := rfl
theorem exec_xorReg : exec (.xorReg x y) s = .next (s.setReg x (s.reg x ^^^ s.reg y)) := rfl

theorem exec_addReg : exec (.addReg x y) s =
    .next ((s.setFlag (carryFlag (s.reg x) (s.reg y))).setReg x (aluAdd (s.reg x) (s.reg y))) := rfl

theorem exec_subReg : exec (.subReg x y) s =
    .next ((s.setFlag (noBorrowFlag (s.reg x) (s.reg y))).setReg x (s.differenceAfterFlag x y)) := rfl

theorem exec_subnReg : exec (.subnReg x y) s =
    .next ((s.setFlag (noBorrowFlag (s.reg y) (s.reg x))).setReg x (s.differenceAfterFlag y x)) := rfl

theorem exec_shiftRight : exec (.shiftRight x y) s =
    .next ((s.setFlag (shiftRightFlag (s.reg x))).setReg x
      (aluShr ((s.setFlag (shiftRightFlag (s.reg x))).reg x))) := rfl

theorem exec_shiftLeft : exec (.shiftLeft x y) s =
    .next ((s.setFlag (shiftLeftFlag (s.reg x))).setReg x
      (aluShl ((s.setFlag (shiftLeftFlag (s.reg x))).reg x))) := rfl

end

end Sys2Proof.Machine
end

section
/-! PROOFS. The obligations of spec/42_family8_alu.md, each from the lemmas above. -/

namespace Sys2Proof.Machine

/-- Settles O34: both operands are read before the flag is written, and the destination is written after it. -/
theorem addRegWritesSumAndCarry : Obligations.AddRegWritesSumAndCarry := by
  intro x y s
  refine ⟨_, exec_addReg s x y, ?_, fun hx => ?_, s.setFlag_setReg_frame x _ _⟩
  · rw [State.reg_setReg_same, toNat_aluAdd]
  · rw [s.reg_flag_setFlag_setReg _ _ hx, flagByte_carryFlag]

/-- Settles O35: the destination takes the difference of the operands as they stand after the flag write. -/
theorem subRegWritesDifferenceAndNoBorrow : Obligations.SubRegWritesDifferenceAndNoBorrow := by
  intro x y s
  have hdest := (s.setFlag (noBorrowFlag (s.reg x) (s.reg y))).reg_setReg_same x (s.differenceAfterFlag x y)
  refine ⟨_, exec_subReg s x y, fun hx => ?_, fun hx hy => ?_, ?_, ?_, ?_, s.setFlag_setReg_frame x _ _⟩
  · rw [s.reg_flag_setFlag_setReg _ _ hx, flagByte_noBorrowFlag]
  · exact hdest.trans (s.differenceAfterFlag_of_ne hx hy)
  · rintro hx rfl
    exact hdest.trans (s.differenceAfterFlag_subtrahend_flag hx)
  · rintro rfl hy
    exact hdest.trans (s.differenceAfterFlag_minuend_flag hy)
  · rintro rfl rfl
    exact hdest.trans (s.differenceAfterFlag_self 15)

/-- Settles O36: sub-reg with the roles of the operands exchanged, the destination being the subtrahend. -/
theorem subnRegWritesDifferenceAndNoBorrow : Obligations.SubnRegWritesDifferenceAndNoBorrow := by
  intro x y s
  have hdest := (s.setFlag (noBorrowFlag (s.reg y) (s.reg x))).reg_setReg_same x (s.differenceAfterFlag y x)
  refine ⟨_, exec_subnReg s x y, fun hx => ?_, fun hx hy => ?_, ?_, ?_, ?_, s.setFlag_setReg_frame x _ _⟩
  · rw [s.reg_flag_setFlag_setReg _ _ hx, flagByte_noBorrowFlag]
  · exact hdest.trans (s.differenceAfterFlag_of_ne hy hx)
  · rintro hx rfl
    exact hdest.trans (s.differenceAfterFlag_minuend_flag hx)
  · rintro rfl hy
    exact hdest.trans (s.differenceAfterFlag_subtrahend_flag hy)
  · rintro rfl rfl
    exact hdest.trans (s.differenceAfterFlag_self 15)

/-- Settles O37: where x is not 15 the flag write leaves the operand, and where x is 15 the operand is the flag. -/
theorem shiftsCaptureTheBitShiftedOut : Obligations.ShiftsCaptureTheBitShiftedOut := by
  intro x y s
  refine ⟨⟨_, exec_shiftRight s x y, fun hx => ⟨?_, ?_⟩, ?_, s.setFlag_setReg_frame x _ _⟩,
    ⟨_, exec_shiftLeft s x y, fun hx => ⟨?_, ?_⟩, ?_, s.setFlag_setReg_frame x _ _⟩⟩
  · rw [s.reg_flag_setFlag_setReg _ _ hx, toNat_flagByte_shiftRightFlag]
  · rw [State.reg_setReg_same, s.reg_setFlag_of_ne _ hx, toNat_aluShr]
  · rintro rfl
    rw [State.reg_setReg_same, s.reg_setFlag_same, aluShr_flagByte]
  · rw [s.reg_flag_setFlag_setReg _ _ hx, toNat_flagByte_shiftLeftFlag]
  · rw [State.reg_setReg_same, s.reg_setFlag_of_ne _ hx, toNat_aluShl]
  · rintro rfl
    rw [State.reg_setReg_same, s.reg_setFlag_same, toNat_aluShl_flagByte, toNat_flagByte_shiftLeftFlag]

/-- Settles O33: each is one write of reg[x], with both operands read before it. -/
theorem logicalOperationsWriteNoFlag : Obligations.LogicalOperationsWriteNoFlag :=
  ⟨decodesTo_of_family_n fun _ hf hn => ⟨hf, rfl, rfl, hn⟩, decodesTo_of_family_n fun _ hf hn => ⟨hf, rfl, rfl, hn⟩,
    decodesTo_of_family_n fun _ hf hn => ⟨hf, rfl, rfl, hn⟩, decodesTo_of_family_n fun _ hf hn => ⟨hf, rfl, rfl, hn⟩,
    fun x y s =>
      ⟨⟨_, exec_loadReg s x y, s.reg_setReg_same x _, s.setReg_frame x _⟩,
        ⟨_, exec_orReg s x y, s.reg_setReg_same x _, s.setReg_frame x _⟩,
        ⟨_, exec_andReg s x y, s.reg_setReg_same x _, s.setReg_frame x _⟩,
        ⟨_, exec_xorReg s x y, s.reg_setReg_same x _, s.setReg_frame x _⟩⟩⟩

end Sys2Proof.Machine
end

section
/-! SUPPORT. load-index, jump-offset, rand-and and the whole of draw-sprite (spec/43_families9toD.md R181-R186): how each
ends, and which pixels lie under a sprite. -/

namespace Sys2Proof.Machine

section
variable (s : State) (x y n : Nibble) (kk : Byte) (nnn : Addr)

theorem exec_loadIndex : exec (.loadIndex nnn) s = .next (s.setI (nnn.setWidth 16)) := rfl

theorem exec_jumpOffset : exec (.jumpOffset nnn) s =
    .next (s.setPc (nnn.setWidth 16 + (s.reg 0).setWidth 16)) := rfl

theorem exec_randAnd : exec (.randAnd x kk) s = .next (s.countDraw.setReg x (s.drawnByte &&& kk)) := rfl

theorem exec_drawSprite : exec (.drawSprite x y n) s =
    .next ((List.range n.toNat).foldl (State.drawRow ((s.reg x).toNat % 64) ((s.reg y).toNat % 32))
      (s.setFlag false)) := rfl

/-- A 12-bit address plus a byte stays below 2^16, so the sum does not wrap (R182). -/
theorem toNat_setWidth_addr_add_byte (v : Byte) :
    (nnn.setWidth 16 + v.setWidth 16).toNat = nnn.toNat + v.toNat := by
  have hbyte : (v.setWidth 16).toNat = v.toNat := BitVec.toNat_setWidth_of_le (by decide)
  rw [BitVec.toNat_add, toNat_setWidth_addr, hbyte]
  omega

theorem State.countDraw_setReg_frame (v : Byte) :
    OnlyChanges (fun q => q = .reg x ∨ q = .draws) s (s.countDraw.setReg x v) :=
  (s.countDraw_frame.mono fun _ h => .inr h).trans ((s.countDraw.setReg_frame x v).mono fun _ h => .inl h)

end

/-! ### The pixels under a sprite (R184, R186) -/

section
variable (s : State) (xs ys : Nat)

/-- Pixel `q` lies under a set bit of row `row` of the sprite at `I`, drawn from column `xs` and row `ys`. -/
def State.UnderSpriteRow (row : Nat) (q : Fin 2048) : Prop :=
  ∃ col < 8, (s.readMem (indexed s.I row)).getLsbD (7 - col) = true ∧ q = pixelIndex (xs + col) (ys + row)

/-- Pixel `q` lies under a set bit of one of the sprite's rows `0 .. m - 1`. -/
def State.UnderSprite (m : Nat) (q : Fin 2048) : Prop := ∃ row < m, s.UnderSpriteRow xs ys row q

theorem State.underSprite_iff (m : Nat) (q : Fin 2048) :
    s.UnderSprite xs ys m q ↔ ∃ row < m, ∃ col < 8, (s.readMem (indexed s.I row)).getLsbD (7 - col) = true ∧
      q.val = ((ys + row) % 32) * 64 + (xs + col) % 64 := by
  simp only [State.UnderSprite, State.UnderSpriteRow, Fin.ext_iff, pixelIndex]

theorem State.underSprite_succ (m : Nat) (q : Fin 2048) :
    s.UnderSprite xs ys (m + 1) q ↔ s.UnderSprite xs ys m q ∨ s.UnderSpriteRow xs ys m q :=
  Nat.exists_lt_succ_right

/-- Drawing writes neither memory nor I, so it leaves the sprite as it was. -/
theorem DrawnFrom.underSpriteRow_eq {s t : State} (h : DrawnFrom s t) :
    t.UnderSpriteRow xs ys = s.UnderSpriteRow xs ys := by
  rw [h]
  rfl

/-- No pixel lies under two rows of a sprite (R184). -/
theorem State.UnderSpriteRow.not_underSprite {s : State} {xs ys m : Nat} {q : Fin 2048} (hm : m < 16)
    (h : s.UnderSpriteRow xs ys m q) : ¬ s.UnderSprite xs ys m q := by
  obtain ⟨col, hcol, -, rfl⟩ := h
  rintro ⟨row, hrow, col', hcol', -, heq⟩
  exact hrow.ne' (pixelIndex_injective hcol hcol' hm (hrow.trans hm) heq).2

theorem State.pixel_drawRow_ne_iff {row : Nat} (hrow : row < 16) (q : Fin 2048) :
    (State.drawRow xs ys s row).pixel q ≠ s.pixel q ↔ s.UnderSpriteRow xs ys row q :=
  (s.drawRow_spec xs ys row hrow).1 q

/-- A row leaves reg[15] at 1, or latches it at 1 where a pixel under it was on (R185). -/
theorem State.flag_drawRow_eq_one_iff {row : Nat} (hrow : row < 16) :
    (State.drawRow xs ys s row).reg 15 = 1 ↔
      s.reg 15 = 1 ∨ ∃ q, s.UnderSpriteRow xs ys row q ∧ s.pixel q = true := by
  obtain ⟨-, hlatch, hkeep⟩ := s.drawRow_spec xs ys row hrow
  by_cases hcoll : ∃ q, s.UnderSpriteRow xs ys row q ∧ s.pixel q = true
  · obtain ⟨q, ⟨col, hcol, hbit, rfl⟩, hon⟩ := hcoll
    exact iff_of_true (hlatch ⟨col, hcol, hbit, hon⟩) (.inr ⟨_, ⟨col, hcol, hbit, rfl⟩, hon⟩)
  · have hnone : ¬∃ col < 8, (s.readMem (indexed s.I row)).getLsbD (7 - col) = true ∧
        s.pixel (pixelIndex (xs + col) (ys + row)) = true :=
      fun ⟨col, hcol, hbit, hon⟩ => hcoll ⟨_, ⟨col, hcol, hbit, rfl⟩, hon⟩
    rw [hkeep hnone, or_iff_left hcoll]

/-- The rows `0 .. m - 1` of a sprite toggle the pixels under them, and latch reg[15] at 1 where one of these was on:
row `m` meets none of the pixels that the rows before it toggled. -/
theorem drawRows_spec : ∀ m ≤ 16,
    (∀ q, ((List.range m).foldl (State.drawRow xs ys) s).pixel q ≠ s.pixel q ↔ s.UnderSprite xs ys m q) ∧
    (((List.range m).foldl (State.drawRow xs ys) s).reg 15 = 1 ↔
      s.reg 15 = 1 ∨ ∃ q, s.UnderSprite xs ys m q ∧ s.pixel q = true) := by
  intro m
  induction m with
  | zero => intro _; simp [State.UnderSprite]
  | succ m ih =>
    intro hm
    obtain ⟨hpixel, hflag⟩ := ih (by omega)
    have hsprite := (drawRows_drawnFrom s xs ys (List.range m)).underSpriteRow_eq xs ys
    rw [List.range_succ, List.foldl_append, List.foldl_cons, List.foldl_nil]
    generalize (List.range m).foldl (State.drawRow xs ys) s = t at hpixel hflag hsprite ⊢
    have hrow := t.pixel_drawRow_ne_iff xs ys (row := m) (by omega)
    have hlatch := t.flag_drawRow_eq_one_iff xs ys (row := m) (by omega)
    rw [hsprite] at hrow hlatch
    have hfresh : ∀ q, s.UnderSpriteRow xs ys m q → t.pixel q = s.pixel q := fun q hq =>
      not_not.mp fun hne => hq.not_underSprite (by omega) ((hpixel q).mp hne)
    constructor
    · intro q
      rw [s.underSprite_succ]
      by_cases hq : s.UnderSpriteRow xs ys m q
      · rw [← hfresh q hq]
        exact iff_of_true ((hrow q).mpr hq) (.inr hq)
      · rw [not_not.mp (mt (hrow q).mp hq), hpixel q, or_iff_left hq]
    · have hon : (∃ q, s.UnderSpriteRow xs ys m q ∧ t.pixel q = true) ↔
          ∃ q, s.UnderSpriteRow xs ys m q ∧ s.pixel q = true :=
        exists_congr fun q => and_congr_right fun hq => by rw [hfresh q hq]
      simp only [s.underSprite_succ, or_and_right, exists_or]
      rw [hlatch, hflag, hon, or_assoc]

theorem drawRows_frame (rows : List Nat) :
    OnlyChanges (fun q => q = .reg 15 ∨ ∃ p, q = .pixel p) s (rows.foldl (State.drawRow xs ys) s) :=
  OnlyChanges.foldl _ rows s fun t row _ => t.drawRow_frame xs ys row

end

end Sys2Proof.Machine
end

section
/-! PROOFS. The obligations of spec/43_families9toD.md, each from the lemmas above. -/

namespace Sys2Proof.Machine

/-- Settles O41: the flag is cleared, then the rows toggle the pixels under them; so reg[15] is 1 exactly where a row
latched it. -/
theorem drawSpriteTogglesAndReportsCollision : Obligations.DrawSpriteTogglesAndReportsCollision := by
  intro x y n s
  obtain ⟨hpixel, hflag⟩ := drawRows_spec (s.setFlag false) ((s.reg x).toNat % 64) ((s.reg y).toNat % 32) n.toNat
    n.isLt.le
  have hclear : (s.setFlag false).reg 15 ≠ 1 := by
    rw [s.reg_setFlag_same]
    decide
  refine ⟨_, exec_drawSprite s x y n, fun p => ?_, flagIsBit_drawRows (s.flagIsBit_setFlag false) _ _ _, ?_, ?_⟩
  · exact (hpixel p).trans ((s.setFlag false).underSprite_iff _ _ _ p)
  · rw [hflag, or_iff_right hclear]
    exact exists_congr fun p => and_congr_left fun _ => (hpixel p).symm
  · exact ((s.setFlag_frame false).mono fun _ h => .inl h).trans (drawRows_frame _ _ _ _)

/-- Settles O30: one write of pc, of a sum that does not wrap. -/
theorem jumpOffsetAddsReg0 : Obligations.JumpOffsetAddsReg0 := fun nnn s =>
  ⟨_, exec_jumpOffset s nnn, toNat_setWidth_addr_add_byte nnn (s.reg 0), s.setPc_frame _⟩

/-- Settles O38: one write of I, of the zero-extended field. -/
theorem loadIndexSetsI : Obligations.LoadIndexSetsI :=
  ⟨decodesTo_of_family fun _ hf => ⟨hf, rfl⟩,
    fun nnn s => ⟨_, exec_loadIndex s nnn, toNat_setWidth_addr nnn, s.setI_frame _⟩⟩

/-- Settles O40: the drawn byte is any byte; masking it with kk clears every bit outside kk. -/
theorem randAndMasksTheDrawnByte : Obligations.RandAndMasksTheDrawnByte := by
  intro x kk s
  have hreg : (s.countDraw.setReg x (s.drawnByte &&& kk)).reg x = s.drawnByte &&& kk := State.reg_setReg_same _ x _
  refine ⟨_, exec_randAnd s x kk, hreg, ?_, rfl, s.countDraw_setReg_frame x _⟩
  rw [hreg, BitVec.and_assoc, BitVec.and_not_self]
  exact BitVec.and_zero

end Sys2Proof.Machine
end

section
/-! SUPPORT. Family 0xE in the execute phase (spec/44_familyE_keys.md): which key a key test selects, how each test ends, and
where pc is then. -/

namespace Sys2Proof.Machine

/-- The selected key is the low 4 bits of the register (D8). -/
theorem State.keyPressed_keySelect (s : State) (v : Byte) :
    s.keyPressed (keySelect v) = s.keypad.getLsbD (v.toNat % 16) :=
  congrArg s.keypad.getLsbD (BitVec.toNat_setWidth 4 v)

theorem keyTest_of_defined {x : Nibble} {s : State} (pressed : Bool)
    (h : ¬(s.cfg.strictUB = true ∧ (s.reg x).toNat > 15)) :
    keyTest x pressed s = .next (s.skipIf (s.keypad.getLsbD ((s.reg x).toNat % 16) == pressed)) :=
  (keyTest_eq_next_iff x pressed s _).mpr ⟨h, by rw [s.keyPressed_keySelect]⟩

theorem keyTest_of_outOfRange {x : Nibble} {s : State} (pressed : Bool) (hstrict : s.cfg.strictUB = true)
    (hrange : (s.reg x).toNat > 15) : keyTest x pressed s = .fault .keyIndexOutOfRange :=
  if_pos ⟨hstrict, hrange⟩

theorem State.skipIf_beq_true_pc (s : State) (b : Bool) :
    (s.skipIf (b == true)).pc = if b then s.pc + 2 else s.pc := by
  cases b <;> rfl

theorem State.skipIf_beq_false_pc (s : State) (b : Bool) :
    (s.skipIf (b == false)).pc = if b then s.pc else s.pc + 2 := by
  cases b <;> rfl

end Sys2Proof.Machine
end

section
/-! PROOFS. The obligation of spec/44_familyE_keys.md, from the lemmas above. -/

namespace Sys2Proof.Machine

/-- Settles O42: both are the key test on the same key, skip-key-pressed for the level 1 and skip-key-not-pressed for the
level 0. -/
theorem keyTestsSkipOnTheSelectedKey : Obligations.KeyTestsSkipOnTheSelectedKey := by
  intro x s
  constructor
  · intro hdefined
    exact ⟨⟨_, keyTest_of_defined true hdefined, s.skipIf_beq_true_pc _, s.skipIf_frame _⟩,
      ⟨_, keyTest_of_defined false hdefined, s.skipIf_beq_false_pc _, s.skipIf_frame _⟩⟩
  · intro hstrict hrange
    exact ⟨keyTest_of_outOfRange true hstrict hrange, keyTest_of_outOfRange false hstrict hrange⟩

end Sys2Proof.Machine
end

section
/-! SUPPORT. Family 0xF in the execute phase (spec/45_familyF_misc.md): how each instruction ends, a Step at a wait-key that
finds no key, the digits and addresses of the memory transfers, and what a whole store or load of registers leaves. -/

namespace Sys2Proof.Machine

section
variable (s : State) (x : Nibble)

/-! ### How each instruction ends -/

theorem exec_getDelayTimer : exec (.getDelayTimer x) s = .next (s.setReg x s.DT) := rfl
theorem exec_setDelayTimer : exec (.setDelayTimer x) s = .next (s.setDT (s.reg x)) := rfl
theorem exec_setSoundTimer : exec (.setSoundTimer x) s = .next (s.setST (s.reg x)) := rfl
theorem exec_addToIndex : exec (.addToIndex x) s = .next (s.setI (s.I + (s.reg x).setWidth 16)) := rfl
theorem exec_fontCharAddress : exec (.fontCharAddress x) s = .next (s.setI (glyphAddr (s.reg x))) := rfl

theorem exec_storeBcd : exec (.storeBcd x) s =
    .next (((s.writeMem (indexed s.I 0) (bcdHundreds (s.reg x))).writeMem (indexed s.I 1) (bcdTens (s.reg x))).writeMem
      (indexed s.I 2) (bcdOnes (s.reg x))) := rfl

theorem exec_storeRegisters : exec (.storeRegisters x) s = .next ((regsUpTo x).foldl State.storeReg s) := rfl
theorem exec_loadRegisters : exec (.loadRegisters x) s = .next ((regsUpTo x).foldl State.loadReg s) := rfl

end

/-! ### wait-key (R211) -/

theorem exec_waitKey_of_lowestKey {s : State} {k : Nat} (x : Nibble) (h : lowestKey s.keypad = some k) :
    exec (.waitKey x) s = .next (s.setReg x (BitVec.ofNat 8 k)) := by
  rw [exec, execWaitKey, h]

theorem exec_waitKey_of_noKey {s : State} (x : Nibble) (h : s.keypad = 0) :
    exec (.waitKey x) s = .next (s.setPc (s.pc - 2)) := by
  rw [exec, execWaitKey, lowestKey_eq_none.mpr h]

theorem exists_lowestKey {keys : BitVec 16} (h : keys ≠ 0) : ∃ k, lowestKey keys = some k :=
  Option.ne_none_iff_exists'.mp (mt lowestKey_eq_none.mp h)

/-- The advance is undone by the rewind: the Step is the fetch and the timer phase. -/
theorem step_of_waitKey_noKey {s : State} {x : Nibble} (hkeys : s.keypad = 0)
    (hdecode : decode s.fetchedWord = .ok (.waitKey x)) : step s = .next s.fetch.tickTimers := by
  have hback : s.fetch.advance.setPc (s.fetch.advance.pc - 2) = s.fetch :=
    congrArg s.fetch.setPc (BitVec.add_sub_cancel s.pc 2)
  rw [step_of_decode hdecode, exec_waitKey_of_noKey (s := s.fetch.advance) x hkeys, hback, mapNext]

/-- Fetch and the timer phase, where the execute phase undoes the advance. -/
theorem State.fetch_tickTimers_frame (s : State) :
    OnlyChanges (fun q => q = .ir ∨ q = .DT ∨ q = .ST ∨ q = .tone) s s.fetch.tickTimers :=
  (s.fetch_frame.mono fun _ h => .inl h).trans (s.fetch.tickTimers_frame.mono fun _ h => .inr h)

/-! ### I (R214, R215) -/

theorem toNat_add_setWidth_byte (i : Word) (v : Byte) : (i + v.setWidth 16).toNat = (i.toNat + v.toNat) % 65536 := by
  have hbyte : (v.setWidth 16).toNat = v.toNat := BitVec.toNat_setWidth_of_le (by decide)
  rw [BitVec.toNat_add, hbyte]

/-- The glyph address of any byte, not only of a digit, stays below 2^16. -/
theorem toNat_glyphAddr (v : Byte) : (glyphAddr v).toNat = 0x0050 + 5 * v.toNat := by
  have hbase : fontBase = 0x0050 := rfl
  rw [glyphAddr, BitVec.toNat_ofNat, hbase]
  omega

/-! ### The decimal digits (R216) -/

theorem toNat_bcdHundreds (v : Byte) : (bcdHundreds v).toNat = v.toNat / 100 := by
  rw [bcdHundreds, BitVec.toNat_ofNat]
  omega

theorem toNat_bcdTens (v : Byte) : (bcdTens v).toNat = v.toNat / 10 % 10 := by
  rw [bcdTens, BitVec.toNat_ofNat]
  omega

theorem toNat_bcdOnes (v : Byte) : (bcdOnes v).toNat = v.toNat % 10 := by
  rw [bcdOnes, BitVec.toNat_ofNat]
  omega

/-! ### The bytes from I on (R61, R75) -/

/-- Within 4096 bytes of I no two offsets meet the same byte, also past 0xFFF. -/
theorem memAddr_indexed_ne (i : Word) {j k : Nat} (hj : j < 4096) (hk : k < 4096) (hne : j ≠ k) :
    memAddr (indexed i j) ≠ memAddr (indexed i k) := by
  rw [memAddr_indexed, memAddr_indexed]
  omega

section
variable (s : State)

theorem State.readMem_writeMem_same (a : Word) (v : Byte) : (s.writeMem a v).readMem a = v := by simp

theorem State.readMem_writeMem_of_ne {a b : Word} (v : Byte) (h : memAddr b ≠ memAddr a) :
    (s.writeMem a v).readMem b = s.readMem b := by
  rw [s.readMem_writeMem, if_neg h]

/-- A store at `I + k` changes that byte only. -/
theorem State.writeMem_indexed_frame (t : State) (k : Nat) (v : Byte) :
    OnlyChanges (fun q => q = indexedByte s k) t (t.writeMem (indexed s.I k) v) :=
  t.writeMem_frame _ v

/-! ### Whole transfers of reg[0] to reg[x] (R217, R218) -/

theorem storeRegs_I (l : List Nibble) : (l.foldl State.storeReg s).I = s.I := by
  rw [storeRegs_eq]

theorem readMem_storeRegsUpTo {x i : Nibble} (hi : i.toNat ≤ x.toNat) :
    ((regsUpTo x).foldl State.storeReg s).readMem (indexed s.I i.toNat) = s.reg i :=
  readMem_storeRegs_mem _ s i ((mem_regsUpTo x i).mpr hi)

theorem storeRegsUpTo_frame (x : Nibble) :
    OnlyChanges (fun q => ∃ k, k ≤ x.toNat ∧ q = indexedByte s k) s ((regsUpTo x).foldl State.storeReg s) :=
  (storeRegs_frame (regsUpTo x) s).mono fun _ ⟨i, hi, hq⟩ => ⟨i.toNat, (mem_regsUpTo x i).mp hi, hq⟩

theorem reg_loadRegsUpTo_of_le {x i : Nibble} (hi : i.toNat ≤ x.toNat) :
    ((regsUpTo x).foldl State.loadReg s).reg i = s.readMem (indexed s.I i.toNat) := by
  rw [reg_loadRegs, if_pos ((mem_regsUpTo x i).mpr hi)]

theorem reg_loadRegsUpTo_of_lt {x i : Nibble} (hi : x.toNat < i.toNat) :
    ((regsUpTo x).foldl State.loadReg s).reg i = s.reg i := by
  rw [reg_loadRegs, if_neg fun hmem => ((mem_regsUpTo x i).mp hmem).not_gt hi]

theorem loadRegsUpTo_frame (x : Nibble) :
    OnlyChanges (fun q => ∃ i : Nibble, i.toNat ≤ x.toNat ∧ q = .reg i) s ((regsUpTo x).foldl State.loadReg s) :=
  OnlyChanges.foldl _ _ s fun t i hi => (t.setReg_frame i _).mono fun _ hq => ⟨i, (mem_regsUpTo x i).mp hi, hq⟩

end

end Sys2Proof.Machine
end

section
/-! PROOFS. The obligations of spec/45_familyF_misc.md, each from the lemmas above. -/

namespace Sys2Proof.Machine

/-- Settles O43: the scan finds the lowest pressed key, or none where no key is pressed. -/
theorem waitKeyTakesTheLowestKeyOrRewinds : Obligations.WaitKeyTakesTheLowestKeyOrRewinds := by
  intro x s
  constructor
  · intro hpressed
    obtain ⟨k, hk⟩ := exists_lowestKey hpressed
    obtain ⟨hlt, hdown, hlower⟩ := lowestKey_eq_some hk
    have hreg : ((s.setReg x (BitVec.ofNat 8 k)).reg x).toNat = k := by
      rw [s.reg_setReg_same, BitVec.toNat_ofNat]
      omega
    refine ⟨_, exec_waitKey_of_lowestKey x hk, ?_, ?_, ?_, s.setReg_frame x _⟩ <;> rw [hreg]
    · exact hlt
    · exact hdown
    · exact hlower
  · intro hnone
    exact ⟨_, exec_waitKey_of_noKey x hnone, s.setPc_pc _, s.setPc_frame _⟩

/-- Settles O44: the rewind undoes the advance, so the Step is the fetch and the timer phase. -/
theorem waitKeyHoldsPcWhileTimersRun : Obligations.WaitKeyHoldsPcWhileTimersRun := by
  intro s x hkeys hdecode
  refine ⟨_, step_of_waitKey_noKey hkeys hdecode, s.fetch_tickTimers_pc, ?_, ?_, s.fetch_tickTimers_frame⟩ <;>
    rw [State.tickTimers_eq]
  · exact toNat_decrement s.DT
  · exact toNat_decrement s.ST

/-- Settles O47: the three stores meet three different bytes, so each digit stands when the next ones are stored. -/
theorem storeBcdWritesThreeDigits : Obligations.StoreBcdWritesThreeDigits := by
  intro x s
  have h01 := memAddr_indexed_ne s.I (j := 0) (k := 1) (by decide) (by decide) (by decide)
  have h02 := memAddr_indexed_ne s.I (j := 0) (k := 2) (by decide) (by decide) (by decide)
  have h12 := memAddr_indexed_ne s.I (j := 1) (k := 2) (by decide) (by decide) (by decide)
  refine ⟨_, exec_storeBcd s x, ?_, ?_, ?_, ?_⟩
  · rw [State.readMem_writeMem_of_ne _ _ h02, State.readMem_writeMem_of_ne _ _ h01, State.readMem_writeMem_same,
      toNat_bcdHundreds]
  · rw [State.readMem_writeMem_of_ne _ _ h12, State.readMem_writeMem_same, toNat_bcdTens]
  · rw [State.readMem_writeMem_same, toNat_bcdOnes]
  · exact (((s.writeMem_indexed_frame s 0 _).mono fun _ h => .inl h).trans
      ((s.writeMem_indexed_frame _ 1 _).mono fun _ h => .inr (.inl h))).trans
      ((s.writeMem_indexed_frame _ 2 _).mono fun _ h => .inr (.inr h))

/-- Settles O48: the loop stores each register of reg[0] to reg[x] at its own byte. -/
theorem storeRegistersWritesRegToX : Obligations.StoreRegistersWritesRegToX := fun x s =>
  ⟨_, exec_storeRegisters s x, fun _ hi => readMem_storeRegsUpTo s hi, storeRegsUpTo_frame s x⟩

/-- Settles O49: the loop writes registers only, so each of its reads sees the memory and the I of the start. -/
theorem loadRegistersReadsRegToX : Obligations.LoadRegistersReadsRegToX := fun x s =>
  ⟨_, exec_loadRegisters s x, fun _ hi => reg_loadRegsUpTo_of_le s hi, loadRegsUpTo_frame s x⟩

/-- Settles O50: the load reads at the I of the store, which the store leaves, the bytes that the store wrote. -/
theorem storeThenLoadRegistersRestores : Obligations.StoreThenLoadRegistersRestores := by
  rintro x s t u v hstore rfl
  cases (exec_storeRegisters s x).symm.trans hstore
  refine ⟨_, exec_loadRegisters _ x, fun i hi => ?_, fun i hi => reg_loadRegsUpTo_of_lt _ hi⟩
  have hread := readMem_storeRegsUpTo s hi
  rw [← storeRegs_I s (regsUpTo x)] at hread
  exact (reg_loadRegsUpTo_of_le _ hi).trans hread

/-- Settles O39: each is one write of I. -/
theorem indexArithmetic : Obligations.IndexArithmetic := fun x s =>
  ⟨⟨_, exec_addToIndex s x, toNat_add_setWidth_byte s.I (s.reg x), s.setI_frame _⟩,
    ⟨_, exec_fontCharAddress s x, toNat_glyphAddr (s.reg x), s.setI_frame _⟩⟩

/-- Settles O45: each is one write, of reg[x] or of one timer. -/
theorem timerInstructionsMoveTimers : Obligations.TimerInstructionsMoveTimers := fun x s =>
  ⟨⟨_, exec_getDelayTimer s x, s.reg_setReg_same x _, s.setReg_frame x _⟩,
    ⟨_, exec_setDelayTimer s x, s.setDT_DT _, s.setDT_frame _⟩,
    ⟨_, exec_setSoundTimer s x, s.setST_ST _, s.setST_frame _⟩⟩

end Sys2Proof.Machine
end

section
/-! SUPPORT. Where an instruction stops (spec/60_exceptions.md R240, R241, D21): each instruction either ends in a next
state, and then no undefined condition holds of it under STRICT_UB, or in the fault of the condition that does. -/

namespace Sys2Proof.Machine

/-- The one fault an instruction can raise, if it can raise one (D21). -/
def undefinedFault : Instr → Option Fault
  | .call _ => some .stackOverflow
  | .ret => some .stackUnderflow
  | .skipKeyPressed _ | .skipKeyNotPressed _ => some .keyIndexOutOfRange
  | _ => none

/-- An undefined condition names its instruction, so an instruction has at most one of them. -/
theorem undefinedFault_of_undefinedCondition {i : Instr} {s : State} {f : Fault} (h : undefinedCondition i s f) :
    undefinedFault i = some f := by
  cases f with
  | stackOverflow => obtain ⟨⟨nnn, rfl⟩, -⟩ := h; rfl
  | stackUnderflow => obtain ⟨rfl, -⟩ := h; rfl
  | keyIndexOutOfRange => obtain ⟨x, rfl | rfl, -⟩ := h <;> rfl

/-- The instruction completes, with nothing undefined under STRICT_UB, or stops with the fault of what is undefined. -/
def CompletesOrFaults (i : Instr) (s : State) : Prop :=
  (∃ t, exec i s = .next t ∧ ∀ f, ¬(s.cfg.strictUB = true ∧ undefinedCondition i s f)) ∨
    ∃ f, exec i s = .fault f ∧ s.cfg.strictUB = true ∧ undefinedCondition i s f

theorem completesOrFaults_of_next {i : Instr} {s t : State} (hexec : exec i s = .next t)
    (hnone : undefinedFault i = none) : CompletesOrFaults i s := by
  refine .inl ⟨t, hexec, fun f ⟨_, hundef⟩ => ?_⟩
  rw [undefinedFault_of_undefinedCondition hundef] at hnone
  cases hnone

/-- A meaning that faults under its undefined condition and otherwise completes. -/
theorem completesOrFaults_of_ite {i : Instr} {s u : State} {f : Fault} {c : Prop} [Decidable c]
    (hexec : exec i s = if c then .fault f else .next u) (hfault : undefinedFault i = some f)
    (hcond : c ↔ s.cfg.strictUB = true ∧ undefinedCondition i s f) : CompletesOrFaults i s := by
  by_cases hc : c
  · rw [if_pos hc] at hexec
    exact .inr ⟨f, hexec, hcond.mp hc⟩
  · rw [if_neg hc] at hexec
    refine .inl ⟨u, hexec, fun g ⟨hstrict, hundef⟩ => hc (hcond.mpr ⟨hstrict, ?_⟩)⟩
    obtain rfl := Option.some.inj ((undefinedFault_of_undefinedCondition hundef).symm.trans hfault)
    exact hundef

/-- wait-key completes whether a key is pressed or not (45_familyF_misc.md R211). -/
theorem exists_exec_waitKey (x : Nibble) (s : State) : ∃ t, exec (.waitKey x) s = .next t := by
  by_cases hkeys : s.keypad = 0
  · exact ⟨_, exec_waitKey_of_noKey x hkeys⟩
  · obtain ⟨k, hk⟩ := exists_lowestKey hkeys
    exact ⟨_, exec_waitKey_of_lowestKey x hk⟩

theorem exec_completesOrFaults (i : Instr) (s : State) : CompletesOrFaults i s := by
  cases i with
  | call | ret | skipKeyPressed | skipKeyNotPressed =>
    exact completesOrFaults_of_ite rfl rfl (by simp [undefinedCondition])
  | waitKey x =>
    obtain ⟨t, ht⟩ := exists_exec_waitKey x s
    exact completesOrFaults_of_next ht rfl
  | _ => exact completesOrFaults_of_next rfl rfl

theorem exec_eq_fault_iff (i : Instr) (s : State) (f : Fault) :
    exec i s = .fault f ↔ s.cfg.strictUB = true ∧ undefinedCondition i s f := by
  obtain ⟨t, hexec, hdefined⟩ | ⟨g, hexec, hstrict, hundef⟩ := exec_completesOrFaults i s
  · exact iff_of_false (by simp [hexec]) (hdefined f)
  · rw [hexec]
    constructor
    · rintro ⟨⟩
      exact ⟨hstrict, hundef⟩
    · rintro ⟨-, hundef'⟩
      rw [Option.some.inj
        ((undefinedFault_of_undefinedCondition hundef).symm.trans (undefinedFault_of_undefinedCondition hundef'))]

theorem exec_ne_refused (i : Instr) (s : State) (r : Refusal) : exec i s ≠ .refused r := by
  obtain ⟨t, hexec, -⟩ | ⟨f, hexec, -⟩ := exec_completesOrFaults i s <;> simp [hexec]

/-- Without STRICT_UB there is no fault left to end in. -/
theorem exists_exec_of_not_strict {s : State} (hstrict : s.cfg.strictUB = false) (i : Instr) :
    ∃ t, exec i s = .next t := by
  obtain ⟨t, hexec, -⟩ | ⟨f, -, htrue, -⟩ := exec_completesOrFaults i s
  · exact ⟨t, hexec⟩
  · exact absurd (hstrict.symm.trans htrue) Bool.false_ne_true

theorem exists_execute_of_not_strict {s : State} (hstrict : s.cfg.strictUB = false) (w : Word) :
    ∃ t, execute w s = .next t := by
  cases hdecode : decode w with
  | ok i => rw [execute_of_decode s hdecode]; exact exists_exec_of_not_strict hstrict i
  | error e => exact ⟨s, execute_of_undefined s hdecode⟩

end Sys2Proof.Machine
end

section
/-! SUPPORT. STRICT_UB decides whether an instruction stops, and nothing else (D21): the operations commute with
switching it, memory included, whose unlisted bytes depend on FONT_DATA only. -/

namespace Sys2Proof.Machine

theorem Memory.read_strictUB (b : Bool) (c : Config) (m : Memory) (a : Nat) :
    Memory.read { c with strictUB := b } m a = Memory.read c m a := by
  induction m with
  | nil => rfl
  | cons e m ih => simp only [Memory.read, ih]

theorem State.readMem_withStrict (b : Bool) (s : State) (a : Word) : (s.withStrict b).readMem a = s.readMem a :=
  Memory.read_strictUB b s.cfg s.mem (memAddr a)

theorem State.skipIf_withStrict (b : Bool) (s : State) (c : Bool) :
    (s.withStrict b).skipIf c = (s.skipIf c).withStrict b := by
  cases c <;> rfl

theorem State.drawPixel_withStrict (b : Bool) (xs ys row : Nat) (byte : Byte) (s : State) (col : Nat) :
    State.drawPixel xs ys row byte (s.withStrict b) col = (State.drawPixel xs ys row byte s col).withStrict b := by
  have hpixel : ∀ p, (s.withStrict b).pixel p = s.pixel p := fun _ => rfl
  unfold State.drawPixel
  split
  · simp only [hpixel]
    split <;> rfl
  · rfl

theorem State.drawRow_withStrict (b : Bool) (xs ys : Nat) (s : State) (row : Nat) :
    State.drawRow xs ys (s.withStrict b) row = (State.drawRow xs ys s row).withStrict b := by
  have hI : (s.withStrict b).I = s.I := rfl
  rw [State.drawRow, hI, s.readMem_withStrict]
  exact List.foldl_hom (State.withStrict · b) (State.drawPixel_withStrict b xs ys row _)

theorem State.loadReg_withStrict (b : Bool) (s : State) (i : Nibble) :
    (s.withStrict b).loadReg i = (s.loadReg i).withStrict b :=
  congrArg ((s.withStrict b).setReg i) (s.readMem_withStrict b _)

theorem State.not_strict_withStrict_false (s : State) (c : Prop) :
    ¬((s.withStrict false).cfg.strictUB = true ∧ c) :=
  fun ⟨hstrict, _⟩ => Bool.false_ne_true hstrict

theorem keyTest_withStrict_false {x : Nibble} {pressed : Bool} {s t : State} (h : keyTest x pressed s = .next t) :
    keyTest x pressed (s.withStrict false) = .next (t.withStrict false) := by
  obtain ⟨-, rfl⟩ := (keyTest_eq_next_iff x pressed s t).mp h
  exact (keyTest_eq_next_iff x pressed _ _).mpr ⟨s.not_strict_withStrict_false _, (s.skipIf_withStrict false _).symm⟩

/-- An instruction that completes does the same with STRICT_UB switched off. -/
theorem exec_withStrict_false {i : Instr} {s t : State} (h : exec i s = .next t) :
    exec i (s.withStrict false) = .next (t.withStrict false) := by
  cases i with
  | ret =>
    obtain ⟨-, rfl⟩ := (execRet_eq_next_iff s t).mp h
    exact exec_ret_of_defined (s.not_strict_withStrict_false _)
  | call nnn =>
    obtain ⟨-, rfl⟩ := (execCall_eq_next_iff nnn s t).mp h
    exact exec_call_of_defined _ nnn (s.not_strict_withStrict_false _)
  | skipKeyPressed x => exact keyTest_withStrict_false h
  | skipKeyNotPressed x => exact keyTest_withStrict_false h
  | waitKey x =>
    obtain ⟨k, hk, rfl⟩ | ⟨hnone, rfl⟩ := execWaitKey_cases h
    · exact exec_waitKey_of_lowestKey (s := s.withStrict false) x hk
    · exact exec_waitKey_of_noKey (s := s.withStrict false) x (lowestKey_eq_none.mp hnone)
  | skipEqImm | skipNeImm | skipEqReg | skipNeReg =>
    cases h
    exact congrArg Host.Outcome.next (s.skipIf_withStrict false _)
  | drawSprite x y n =>
    cases h
    exact congrArg Host.Outcome.next
      (List.foldl_hom (State.withStrict · false) (init := s.setFlag false) (State.drawRow_withStrict false _ _))
  | storeRegisters x =>
    cases h
    exact congrArg Host.Outcome.next (List.foldl_hom (State.withStrict · false) (fun _ _ => rfl))
  | loadRegisters x =>
    cases h
    exact congrArg Host.Outcome.next (List.foldl_hom (State.withStrict · false) (State.loadReg_withStrict false))
  | _ => cases h; rfl

end Sys2Proof.Machine
end

section
/-! SUPPORT. No Step changes the parameters, and in the execute phase only set-sound-timer changes ST (spec/00_scope.md R8,
spec/10_state.md R34). -/

namespace Sys2Proof.Machine

theorem execute_keeps_cfg {w : Word} {s t : State} (h : execute w s = .next t) : t.cfg = s.cfg := by
  obtain ⟨i, -, hexec⟩ | ⟨-, rfl⟩ := execute_eq_next h
  · obtain ⟨-, hcfg, -⟩ := exec_keeps_inputs hexec
    exact hcfg
  · rfl

theorem step_keeps_cfg {s t : State} (h : step s = .next t) : t.cfg = s.cfg := by
  obtain ⟨u, hu, rfl⟩ := (step_eq_next_iff s t).mp h
  have hcfg : u.cfg = s.fetch.advance.cfg := execute_keeps_cfg hu
  rw [State.tickTimers_eq, hcfg, State.advance_cfg, State.fetch_cfg]

theorem execute_keeps_ST {w : Word} {s t : State} (h : execute w s = .next t)
    (hother : ∀ x, decode w ≠ .ok (.setSoundTimer x)) : t.ST = s.ST := by
  obtain ⟨i, hdecode, hexec⟩ | ⟨-, rfl⟩ := execute_eq_next h
  · by_contra hne
    obtain ⟨x, rfl⟩ := ST_writer hexec hne
    exact hother x hdecode
  · rfl

end Sys2Proof.Machine
end

section
/-! SUPPORT. The host's transactions and runs (spec/60_exceptions.md R260, R273): what a transaction can make of the
state, and that a run keeps what every transaction keeps. -/

namespace Sys2Proof.Machine

theorem State.hostKeypad_frame (s : State) (keys : BitVec 16) :
    OnlyChanges (fun q => q = .keypad) s (s.hostKeypad keys) := by
  intro q hq
  cases q <;> simp_all [Part.same]

theorem State.readMem_hostLoad_same (s : State) (a : Addr) (v : Byte) : (s.hostLoad a v).readMem (a.setWidth 16) = v :=
  s.readMem_writeMem_same (a.setWidth 16) v

theorem serve_step_of_next {s t : State} (h : step s = .next t) : serve .step s = .next (t, .tone t.tone) := by
  rw [serve, h]

/-- A Step transaction ends in the state that the Step ends in. -/
theorem step_of_serve_step {s t : State} {reply : HostReply} (h : serve .step s = .next (t, reply)) :
    step s = .next t := by
  unfold serve at h
  dsimp only at h
  split at h <;> cases h
  assumption

/-- A transaction initializes, steps, reads, writes the keypad or writes a byte of memory (R260). -/
theorem serve_cases {r : HostRequest} {s t : State} {reply : HostReply} (h : serve r s = .next (t, reply)) :
    t = s.hostInit ∨ step s = .next t ∨ t = s ∨ (∃ keys, t = s.hostKeypad keys) ∨ ∃ a v, t = s.hostLoad a v := by
  cases r with
  | init => cases h; exact .inl rfl
  | step => exact .inr (.inl (step_of_serve_step h))
  | readPixel | readTimers => cases h; exact .inr (.inr (.inl rfl))
  | writeKeypad keys => cases h; exact .inr (.inr (.inr (.inl ⟨keys, rfl⟩)))
  | writeMemory a v => cases h; exact .inr (.inr (.inr (.inr ⟨a, v, rfl⟩)))

theorem serve_keeps_inv {r : HostRequest} {s t : State} {reply : HostReply} (h : serve r s = .next (t, reply))
    (hs : s.Inv) : t.Inv := by
  obtain rfl | hstep | rfl | ⟨keys, rfl⟩ | ⟨a, v, rfl⟩ := serve_cases h
  · exact s.inv_hostInit
  · exact step_keeps_inv hstep hs
  · exact hs
  · exact hs.of_fields_eq rfl rfl rfl rfl
  · exact hs.writeMem _ v

theorem serve_keeps_cfg {r : HostRequest} {s t : State} {reply : HostReply} (h : serve r s = .next (t, reply)) :
    t.cfg = s.cfg := by
  obtain rfl | hstep | rfl | ⟨keys, rfl⟩ | ⟨a, v, rfl⟩ := serve_cases h
  · rfl
  · exact step_keeps_cfg hstep
  · rfl
  · rfl
  · rfl

/-- A run of one transaction and more completes when that transaction and the rest of the run do. -/
theorem session_cons_eq_next {r : HostRequest} {rs : List HostRequest} {s u : State} {replies : List HostReply}
    (h : session (r :: rs) s = .next (u, replies)) :
    ∃ t reply rest, serve r s = .next (t, reply) ∧ session rs t = .next (u, rest) ∧ replies = reply :: rest := by
  unfold session at h
  split at h
  next t reply hserve =>
    split at h <;> cases h
    exact ⟨t, reply, _, hserve, ‹_›, rfl⟩
  all_goals cases h

/-- What every transaction keeps, a run keeps. -/
theorem session_keeps {P : State → Prop}
    (hserve : ∀ {r s t reply}, serve r s = .next (t, reply) → P s → P t) {rs : List HostRequest} {s u : State}
    {replies : List HostReply} (h : session rs s = .next (u, replies)) (hs : P s) : P u := by
  induction rs generalizing s replies with
  | nil => cases h; exact hs
  | cons r rs ih =>
    obtain ⟨t, reply, rest, hfirst, hrest, -⟩ := session_cons_eq_next h
    exact ih hrest (hserve hfirst hs)

theorem session_replies_length {rs : List HostRequest} {s u : State} {replies : List HostReply}
    (h : session rs s = .next (u, replies)) : replies.length = rs.length := by
  induction rs generalizing s replies with
  | nil => cases h; rfl
  | cons r rs ih =>
    obtain ⟨t, reply, rest, -, hrest, rfl⟩ := session_cons_eq_next h
    rw [List.length_cons, List.length_cons, ih hrest]

end Sys2Proof.Machine
end

section
/-! PROOFS. The obligations of spec/60_exceptions.md, each from the lemmas above. -/

namespace Sys2Proof.Machine

/-- Settles O19: every transaction keeps the invariant and the parameters, so every run does, and each transaction of a
run that reaches its end has replied. -/
theorem everyRunKeepsTheInvariant : Obligations.EveryRunKeepsTheInvariant := fun _ s _ _ hs h =>
  ⟨session_keeps serve_keeps_inv h hs,
    session_keeps (P := fun u => u.cfg = s.cfg) (fun hserve hcfg => (serve_keeps_cfg hserve).trans hcfg) h rfl,
    session_replies_length h⟩

/-- Settles O11: a fault needs STRICT_UB, an undefined word runs as the no-op, and the timer phase follows. -/
theorem hardwareNeverStops : Obligations.HardwareNeverStops := by
  intro s hstrict
  obtain ⟨t, ht⟩ := exists_execute_of_not_strict (s := s.fetch.advance) hstrict s.fetch.ir
  exact ⟨exists_exec_of_not_strict hstrict, t, ht, (step_eq_next_iff s _).mpr ⟨t, ht, rfl⟩⟩

/-- Settles O12: an instruction completes or ends in the fault of its one undefined condition. -/
theorem stopsAreExactlyTheStrictConditions : Obligations.StopsAreExactlyTheStrictConditions :=
  fun i s => ⟨exec_eq_fault_iff i s, exec_ne_refused i s⟩

/-- Settles O13: switching STRICT_UB off commutes with every operation an instruction is made of. -/
theorem strictAgreesWithHardware : Obligations.StrictAgreesWithHardware :=
  fun _ s _ h => exec_withStrict_false (s := s.withStrict true) h

/-- Settles O14: each timer's decrement reads that timer only, and the timer phase is what follows the execute phase. -/
theorem timersSaturateAtZero : Obligations.TimersSaturateAtZero := by
  intro s
  refine ⟨?_, ?_, s.tickTimers_frame, fun t => (step_eq_next_iff s t).mp⟩ <;> rw [State.tickTimers_eq]
  · exact toNat_decrement s.DT
  · exact toNat_decrement s.ST

/-- Settles O15: the tone is the timer phase's comparison of ST with 1, on the state the execute phase left. -/
theorem toneMarksTheSoundTimersLastTick : Obligations.ToneMarksTheSoundTimersLastTick := by
  intro s t u hexecute hstep
  constructor
  · obtain ⟨u', hexecute', rfl⟩ := (step_eq_next_iff s t).mp hstep
    cases hexecute.symm.trans hexecute'
    rw [State.tickTimers_eq]
    exact decide_eq_true_iff
  · intro hother
    have hST : u.ST = s.fetch.advance.ST := execute_keeps_ST hexecute hother
    rw [hST, State.advance_ST, State.fetch_ST]

/-- Settles O31: the jump undoes the advance, so the Step is the fetch and the timer phase. -/
theorem selfJumpChangesOnlyTimers : Obligations.SelfJumpChangesOnlyTimers := by
  intro s nnn hpc hdecode
  refine ⟨_, step_of_selfJump hpc hdecode, s.fetch_tickTimers_pc, s.fetch_tickTimers_frame.mono ?_⟩
  rintro q (hir | hDT | hST | htone)
  · exact .inr (.inr (.inr hir))
  · exact .inl hDT
  · exact .inr (.inl hST)
  · exact .inr (.inr (.inl htone))

/-- Settles O52: both reads answer with the state they were asked in. -/
theorem hostReadsChangeNothing : Obligations.HostReadsChangeNothing := fun _ _ => ⟨rfl, rfl⟩

/-- Settles O53: each write transaction is one write of the state, and the Step's reply is its tone. -/
theorem hostWritesAndTransactions : Obligations.HostWritesAndTransactions := fun s =>
  ⟨fun keys => ⟨_, rfl, s.hostKeypad_keypad keys, s.hostKeypad_frame keys⟩,
    fun a v => ⟨_, rfl, s.readMem_hostLoad_same a v, s.hostLoad_frame a v⟩,
    fun _ => serve_step_of_next, rfl⟩

end Sys2Proof.Machine
end

section
/-! SUPPORT. A Step at each of the two delay-timer moves (spec/45_familyF_misc.md R210, R212), with its timer phase
(30_encoding.md R104): a set is decremented once before the Step ends, a get reads before the decrement. -/

namespace Sys2Proof.Machine

/-- The timer phase follows the write (R250). -/
theorem toNat_DT_of_step_setDelayTimer {s t : State} {x : Nibble}
    (hdecode : decode s.fetchedWord = .ok (.setDelayTimer x)) (hstep : step s = .next t) :
    t.DT.toNat = (s.reg x).toNat - 1 := by
  rw [step_of_decode hdecode, exec_setDelayTimer, mapNext] at hstep
  cases hstep
  rw [State.tickTimers_eq]
  exact toNat_decrement (s.reg x)

/-- The timer phase writes no register. -/
theorem reg_of_step_getDelayTimer {s t : State} {y : Nibble}
    (hdecode : decode s.fetchedWord = .ok (.getDelayTimer y)) (hstep : step s = .next t) : t.reg y = s.DT := by
  rw [step_of_decode hdecode, exec_getDelayTimer, mapNext] at hstep
  cases hstep
  rw [State.tickTimers_eq]
  exact s.fetch.advance.reg_setReg_same y s.DT

end Sys2Proof.Machine
end

section
/-! PROOFS. The obligation of spec/70_reset_and_hazards.md, from the lemmas above. -/

namespace Sys2Proof.Machine

/-- Settles O46: the second Step reads the DT that the first one's timer phase left. -/
theorem delayTimerReadsOneLessInTheNextStep : Obligations.DelayTimerReadsOneLessInTheNextStep := by
  intro s t u x y hset hstep hget hstep'
  rw [reg_of_step_getDelayTimer hget hstep']
  exact toNat_DT_of_step_setDelayTimer hset hstep

end Sys2Proof.Machine
end
